-- ==== Sys2Proof/Word.lean ====
section
/-! DEFINITION. The word types of the block: bytes, bus addresses and operation words (spec/00_scope.md R10,
spec/30_encoding.md R80). -/

namespace Sys2Proof

/-- A data byte of either bus interface (R10: data are 8 bits). -/
abbrev Byte := BitVec 8

/-- A bus address (R10: addresses are 16 bits). -/
abbrev Addr := BitVec 16

/-- An operation word, `kind[26:24] ++ a[23:8] ++ d[7:0]` (R80: all operation words have the one length, 27 bits). -/
abbrev OpWord := BitVec 27

end Sys2Proof
end

