-- ==== Sys2Proof/Syntax.lean ====
section
/-! DEFINITION. The operations of the block, one constructor per row of spec/opcode_table.json. What an instruction
set calls an instruction is here an operation the environment issues (spec/00_scope.md R6): a register write with its
byte `d`, the status read, `TICK(n)`, or `SAMPLE(ch)`. -/

namespace Sys2Proof

/-- One operation of the block (R6, R105); the constructor is the row's mnemonic. -/
inductive Instr where
  /-- `W4000`: WRITE($4000, d), pulse 1: volume/envelope/halt/duty (R111). -/
  | w4000 (d : Byte)
  /-- `W4001`: WRITE($4001, d), pulse 1: sweep (R112). -/
  | w4001 (d : Byte)
  /-- `W4002`: WRITE($4002, d), pulse 1: period lo (R113). -/
  | w4002 (d : Byte)
  /-- `W4003`: WRITE($4003, d), pulse 1: period hi + length-load, and the Reset (R114). -/
  | w4003 (d : Byte)
  /-- `W4004`: WRITE($4004, d), pulse 2: volume/envelope/halt/duty (R117). -/
  | w4004 (d : Byte)
  /-- `W4005`: WRITE($4005, d), pulse 2: sweep (R118). -/
  | w4005 (d : Byte)
  /-- `W4006`: WRITE($4006, d), pulse 2: period lo (R119). -/
  | w4006 (d : Byte)
  /-- `W4007`: WRITE($4007, d), pulse 2: period hi + length-load, and the Reset (R120). -/
  | w4007 (d : Byte)
  /-- `W4008`: WRITE($4008, d), triangle: linear-counter reload/halt (R130). -/
  | w4008 (d : Byte)
  /-- `W4009`: WRITE($4009, d), no register of this block: ignored (R163). -/
  | w4009 (d : Byte)
  /-- `W400A`: WRITE($400A, d), triangle: period lo (R131). -/
  | w400A (d : Byte)
  /-- `W400B`: WRITE($400B, d), triangle: period hi + length-load, and the Reset (R132). -/
  | w400B (d : Byte)
  /-- `W400C`: WRITE($400C, d), noise: volume/envelope/halt (R134). -/
  | w400C (d : Byte)
  /-- `W400D`: WRITE($400D, d), no register of this block: ignored (R163). -/
  | w400D (d : Byte)
  /-- `W400E`: WRITE($400E, d), noise: period-index + mode (R135). -/
  | w400E (d : Byte)
  /-- `W400F`: WRITE($400F, d), noise: length-load, and the Reset (R136). -/
  | w400F (d : Byte)
  /-- `W4010`: WRITE($4010, d), DMC: IRQ-enable/loop/rate (R138). -/
  | w4010 (d : Byte)
  /-- `W4011`: WRITE($4011, d), DMC: output level (R139). -/
  | w4011 (d : Byte)
  /-- `W4012`: WRITE($4012, d), DMC: sample start address (R140). -/
  | w4012 (d : Byte)
  /-- `W4013`: WRITE($4013, d), DMC: sample length, and the Reset (R141). -/
  | w4013 (d : Byte)
  /-- `W4014`: WRITE($4014, d), no register of this block: ignored (R163). -/
  | w4014 (d : Byte)
  /-- `W4015`: WRITE($4015, d), channel enables (R160). -/
  | w4015 (d : Byte)
  /-- `W4016`: WRITE($4016, d), no register of this block: ignored (R163). -/
  | w4016 (d : Byte)
  /-- `W4017`: WRITE($4017, d), frame-counter control (R162). -/
  | w4017 (d : Byte)
  /-- `RD4015`: READ($4015), the status read (R161). -/
  | rd4015
  /-- `TICK`: TICK(n), n CPU cycles elapsed, any natural number (R80, R180). -/
  | tick (n : Nat)
  /-- `SAMPLE.P1`: SAMPLE(0), one output sample of pulse 1 (R212). -/
  | sampleP1
  /-- `SAMPLE.P2`: SAMPLE(1), one output sample of pulse 2 (R213). -/
  | sampleP2
  /-- `SAMPLE.TRI`: SAMPLE(2), one output sample of the triangle (R215). -/
  | sampleTri
  /-- `SAMPLE.NOI`: SAMPLE(3), one output sample of the noise channel (R221). -/
  | sampleNoi
  /-- `SAMPLE.DMC`: SAMPLE(4), one output sample of the DMC (R217). -/
  | sampleDmc
  deriving DecidableEq, Repr

end Sys2Proof
end

