-- ==== Sys2Proof/WellFormed.lean ====
section
/-! DEFINITION. When an operation has an operation word. The byte operands are in range by their type; the one check is
TICK's count, whose field holds 24 bits (spec/30_encoding.md R80). -/

namespace Sys2Proof

/-- An operation is well formed when the serialisation of R80 can spell it: TICK's n is in 0..2^24-1 ("the 24-bit field
is only the serialisation's limit"; the meaning of `tick n` covers every natural number). -/
def Instr.wellFormed (i : Instr) : Bool :=
  match i with
  | .tick n => n < 2 ^ 24
  | .w4000 _ | .w4001 _ | .w4002 _ | .w4003 _ | .w4004 _ | .w4005 _ | .w4006 _ | .w4007 _
  | .w4008 _ | .w4009 _ | .w400A _ | .w400B _ | .w400C _ | .w400D _ | .w400E _ | .w400F _
  | .w4010 _ | .w4011 _ | .w4012 _ | .w4013 _ | .w4014 _ | .w4015 _ | .w4016 _ | .w4017 _
  | .rd4015 | .sampleP1 | .sampleP2 | .sampleTri | .sampleNoi | .sampleDmc => true

end Sys2Proof
end

