-- ==== Sys2Proof/Decode.lean ====
section
/-! DEFINITION. The decoder of operation words, total and rejecting by name, and the encoder (spec/30_encoding.md R80,
R81, R99). An operation word is `kind[26:24] ++ a[23:8] ++ d[7:0]`. -/

namespace Sys2Proof

/-- Why a word spells no operation of the table. -/
inductive DecodeError where
  /-- Kinds 100..111 spell no operation (R80, R99(c)). -/
  | reservedKind (kind : BitVec 3)
  /-- A SAMPLE word whose other bits are not `0 ++ 00000 ++ ch` with ch in 0..4 (R80, R99(c)). -/
  | noSuchChannel (a : Addr) (d : Byte)
  /-- READ of an address of the window other than $4015 (R65, R164). -/
  | readNotStatus (a : Addr)
  /-- READ or WRITE outside $4000..$4017, never handed to the block (R60, R72). -/
  | outsideWindow (a : Addr)
  deriving DecidableEq, Repr

/-- Bits 26:24 of an operation word, its format (R80). -/
def kindOf (w : OpWord) : BitVec 3 := w.extractLsb' 24 3

/-- Bits 23:8 of an operation word, the register address of RD and WR (R80). -/
def addrOf (w : OpWord) : Addr := w.extractLsb' 8 16

/-- Bits 7:0 of an operation word, the byte written by WR (R80). -/
def dataOf (w : OpWord) : Byte := w.extractLsb' 0 8

/-- Bits 23:0 of an operation word, TICK's count `a ++ d` (R80). -/
def countOf (w : OpWord) : BitVec 24 := w.extractLsb' 0 24

/-- Whether an address lies in the register window $4000..$4017 (R60). -/
def inWindow (a : Addr) : Bool := 0x4000 ≤ a.toNat && a.toNat ≤ 0x4017

/-- Format WR: the register is selected by the full 16-bit address (R81). -/
def decodeWrite (a : Addr) (d : Byte) : Except DecodeError Instr :=
  match a with
  | 0x4000#16 => .ok (.w4000 d)
  | 0x4001#16 => .ok (.w4001 d)
  | 0x4002#16 => .ok (.w4002 d)
  | 0x4003#16 => .ok (.w4003 d)
  | 0x4004#16 => .ok (.w4004 d)
  | 0x4005#16 => .ok (.w4005 d)
  | 0x4006#16 => .ok (.w4006 d)
  | 0x4007#16 => .ok (.w4007 d)
  | 0x4008#16 => .ok (.w4008 d)
  | 0x4009#16 => .ok (.w4009 d)
  | 0x400A#16 => .ok (.w400A d)
  | 0x400B#16 => .ok (.w400B d)
  | 0x400C#16 => .ok (.w400C d)
  | 0x400D#16 => .ok (.w400D d)
  | 0x400E#16 => .ok (.w400E d)
  | 0x400F#16 => .ok (.w400F d)
  | 0x4010#16 => .ok (.w4010 d)
  | 0x4011#16 => .ok (.w4011 d)
  | 0x4012#16 => .ok (.w4012 d)
  | 0x4013#16 => .ok (.w4013 d)
  | 0x4014#16 => .ok (.w4014 d)
  | 0x4015#16 => .ok (.w4015 d)
  | 0x4016#16 => .ok (.w4016 d)
  | 0x4017#16 => .ok (.w4017 d)
  | _ => .error (.outsideWindow a)

/-- Format RD: only $4015 is readable (R61, R164); the word's `d` is ignored (R80). -/
def decodeRead (a : Addr) : Except DecodeError Instr :=
  if a = 0x4015#16 then .ok .rd4015
  else if inWindow a then .error (.readNotStatus a)
  else .error (.outsideWindow a)

/-- Format SM: `a` is 0 and `d` is `00000 ++ ch`, ch in 0..4 (R80). -/
def decodeSample (a : Addr) (d : Byte) : Except DecodeError Instr :=
  if a = 0#16 then
    match d with
    | 0#8 => .ok .sampleP1
    | 1#8 => .ok .sampleP2
    | 2#8 => .ok .sampleTri
    | 3#8 => .ok .sampleNoi
    | 4#8 => .ok .sampleDmc
    | _ => .error (.noSuchChannel a d)
  else .error (.noSuchChannel a d)

/-- The decoder, total on every operation word (R80, R99). -/
def decode (w : OpWord) : Except DecodeError Instr :=
  match kindOf w with
  | 0#3 => decodeRead (addrOf w)
  | 1#3 => decodeWrite (addrOf w) (dataOf w)
  | 2#3 => .ok (.tick (countOf w).toNat)
  | 3#3 => decodeSample (addrOf w) (dataOf w)
  | k => .error (.reservedKind k)

/-- The operation word with the given kind, address and data fields (R80). -/
def opWord (kind : BitVec 3) (a : Addr) (d : Byte) : OpWord := kind ++ a ++ d

/-- The TK word of a count (R80: n = a ++ d). -/
def tickWord (n : BitVec 24) : OpWord := 2#3 ++ n

/-- The encoder: the operation word of a well-formed operation (R80 and the "encoding" column of the operation
table). RD writes its ignored byte as 0. -/
def encode (i : Instr) : OpWord :=
  match i with
  | .w4000 d => opWord 1#3 0x4000#16 d
  | .w4001 d => opWord 1#3 0x4001#16 d
  | .w4002 d => opWord 1#3 0x4002#16 d
  | .w4003 d => opWord 1#3 0x4003#16 d
  | .w4004 d => opWord 1#3 0x4004#16 d
  | .w4005 d => opWord 1#3 0x4005#16 d
  | .w4006 d => opWord 1#3 0x4006#16 d
  | .w4007 d => opWord 1#3 0x4007#16 d
  | .w4008 d => opWord 1#3 0x4008#16 d
  | .w4009 d => opWord 1#3 0x4009#16 d
  | .w400A d => opWord 1#3 0x400A#16 d
  | .w400B d => opWord 1#3 0x400B#16 d
  | .w400C d => opWord 1#3 0x400C#16 d
  | .w400D d => opWord 1#3 0x400D#16 d
  | .w400E d => opWord 1#3 0x400E#16 d
  | .w400F d => opWord 1#3 0x400F#16 d
  | .w4010 d => opWord 1#3 0x4010#16 d
  | .w4011 d => opWord 1#3 0x4011#16 d
  | .w4012 d => opWord 1#3 0x4012#16 d
  | .w4013 d => opWord 1#3 0x4013#16 d
  | .w4014 d => opWord 1#3 0x4014#16 d
  | .w4015 d => opWord 1#3 0x4015#16 d
  | .w4016 d => opWord 1#3 0x4016#16 d
  | .w4017 d => opWord 1#3 0x4017#16 d
  | .rd4015 => opWord 0#3 0x4015#16 0#8
  | .tick n => tickWord (BitVec.ofNat 24 n)
  | .sampleP1 => opWord 3#3 0#16 0#8
  | .sampleP2 => opWord 3#3 0#16 1#8
  | .sampleTri => opWord 3#3 0#16 2#8
  | .sampleNoi => opWord 3#3 0#16 3#8
  | .sampleDmc => opWord 3#3 0#16 4#8

/-- The "match" and "mask" columns of an operation's row in spec/opcode_table.json: a word spells an operation of the
row when its bits under the mask are the match. -/
def tableRow (i : Instr) : OpWord × OpWord :=
  match i with
  | .w4000 _ => (0x1400000#27, 0x7FFFF00#27)
  | .w4001 _ => (0x1400100#27, 0x7FFFF00#27)
  | .w4002 _ => (0x1400200#27, 0x7FFFF00#27)
  | .w4003 _ => (0x1400300#27, 0x7FFFF00#27)
  | .w4004 _ => (0x1400400#27, 0x7FFFF00#27)
  | .w4005 _ => (0x1400500#27, 0x7FFFF00#27)
  | .w4006 _ => (0x1400600#27, 0x7FFFF00#27)
  | .w4007 _ => (0x1400700#27, 0x7FFFF00#27)
  | .w4008 _ => (0x1400800#27, 0x7FFFF00#27)
  | .w4009 _ => (0x1400900#27, 0x7FFFF00#27)
  | .w400A _ => (0x1400A00#27, 0x7FFFF00#27)
  | .w400B _ => (0x1400B00#27, 0x7FFFF00#27)
  | .w400C _ => (0x1400C00#27, 0x7FFFF00#27)
  | .w400D _ => (0x1400D00#27, 0x7FFFF00#27)
  | .w400E _ => (0x1400E00#27, 0x7FFFF00#27)
  | .w400F _ => (0x1400F00#27, 0x7FFFF00#27)
  | .w4010 _ => (0x1401000#27, 0x7FFFF00#27)
  | .w4011 _ => (0x1401100#27, 0x7FFFF00#27)
  | .w4012 _ => (0x1401200#27, 0x7FFFF00#27)
  | .w4013 _ => (0x1401300#27, 0x7FFFF00#27)
  | .w4014 _ => (0x1401400#27, 0x7FFFF00#27)
  | .w4015 _ => (0x1401500#27, 0x7FFFF00#27)
  | .w4016 _ => (0x1401600#27, 0x7FFFF00#27)
  | .w4017 _ => (0x1401700#27, 0x7FFFF00#27)
  | .rd4015 => (0x0401500#27, 0x7FFFF00#27)
  | .tick _ => (0x2000000#27, 0x7000000#27)
  | .sampleP1 => (0x3000000#27, 0x7FFFFFF#27)
  | .sampleP2 => (0x3000001#27, 0x7FFFFFF#27)
  | .sampleTri => (0x3000002#27, 0x7FFFFFF#27)
  | .sampleNoi => (0x3000003#27, 0x7FFFFFF#27)
  | .sampleDmc => (0x3000004#27, 0x7FFFFFF#27)

/-- The decoder on a row's word as the operation table numbers its bits (log entry 9): the 27 bits of an operation
word; a number with a bit above them spells no operation. -/
def decodeTableWord (nbits w : Nat) : Option Instr :=
  if w % 2 ^ nbits < 2 ^ 27 then (decode (BitVec.ofNat 27 (w % 2 ^ nbits))).toOption else none

end Sys2Proof
end

