-- ==== Sys2Proof/Machine/Units.lean ====
section
/-! DEFINITION. The records of the block's units, with the spec's field names (spec/10_state.md R22 to R34), and the
records that stand for the environment: what it issues, what it answers, what it is handed (spec/00_scope.md R6, R7;
spec/20_memory.md R66; spec/70_reset_and_hazards.md R275). A field that the spec gives bits is a bit vector or a Bool;
one it calls a natural number or a counter is a `Nat`, its range being part of the invariant of Safety.lean. -/

namespace Sys2Proof.Machine

/-- The five channels, numbered 0 to 4 in this order (R11). -/
inductive Channel where
  | p1 | p2 | tri | noi | dmc
  deriving DecidableEq, Repr

/-- `noise.mode` (R31): 0 = long, 1 = short. -/
inductive NoiseMode where
  | long | short
  deriving DecidableEq, Repr

/-- `frame.mode` (R34): 0 = 4-step, 1 = 5-step. -/
inductive FrameMode where
  | fourStep | fiveStep
  deriving DecidableEq, Repr

/-- EnvelopeState (R25): pulse 1, pulse 2 and noise have one each. -/
structure Envelope where
  /-- The register's volume field: the constant-volume level and the divider's `rate`. -/
  volume : BitVec 4
  constantVolume : Bool
  /-- One physical bit with `len.halt` of the same channel (R28, log entry 13). -/
  loop : Bool
  decayCounter : Nat
  divider : Nat
  deriving DecidableEq, Repr

/-- SweepState (R26): pulse 1 and pulse 2 have one each. -/
structure Sweep where
  enabled : Bool
  period : BitVec 3
  negateDirection : Bool
  shiftCount : BitVec 3
  divider : Nat
  /-- The last target the sweep tick computed; read by no rule afterwards. -/
  targetPeriod : Nat
  deriving DecidableEq, Repr

/-- LengthCounterState (R27): pulse 1, pulse 2, triangle and noise have one each. -/
structure LengthCounter where
  counter : Nat
  halt : Bool
  deriving DecidableEq, Repr

/-- LinearCounterState (R30), of the triangle. -/
structure LinearCounter where
  counter : Nat
  reloadValue : BitVec 7
  reloadFlag : Bool
  /-- One physical bit with `tri.len.halt` (R28, log entry 13). -/
  controlFlag : Bool
  deriving DecidableEq, Repr

/-- A pulse channel (R24). -/
structure Pulse where
  duty : BitVec 2
  timerPeriod : BitVec 11
  lengthIndex : BitVec 5
  enabled : Bool
  phase : Rat
  env : Envelope
  sweep : Sweep
  len : LengthCounter
  deriving DecidableEq, Repr

/-- The triangle channel (R29). -/
structure Triangle where
  timerPeriod : BitVec 11
  lengthIndex : BitVec 5
  enabled : Bool
  phase : Rat
  len : LengthCounter
  lin : LinearCounter
  deriving DecidableEq, Repr

/-- The noise channel (R31, R32). -/
structure Noise where
  mode : NoiseMode
  periodIndex : BitVec 4
  lengthIndex : BitVec 5
  enabled : Bool
  phase : Rat
  lfsr : BitVec 15
  env : Envelope
  len : LengthCounter
  deriving DecidableEq, Repr

/-- The DMC channel (R33, R22). -/
structure Dmc where
  irqEnable : Bool
  loopFlag : Bool
  rateIndex : BitVec 4
  /-- The byte last written to $4012. -/
  startReg : Byte
  /-- The byte last written to $4013. -/
  lengthReg : Byte
  sampleAddress : Addr
  bytesRemaining : Nat
  bitBuffer : Byte
  bitsRemaining : Nat
  outputLevel : Nat
  enabled : Bool
  /-- The bit-clock accumulator. -/
  phase : Rat
  irqFlag : Bool
  deriving DecidableEq, Repr

/-- The frame sequencer (R34); `step` is the number of steps already fired in the current frame. -/
structure FrameSequencer where
  cycleAccumulator : Nat
  step : Nat
  mode : FrameMode
  irqInhibit : Bool
  irqFlag : Bool
  deriving DecidableEq, Repr

/-- One operation the environment has issued (R6): an operation word of R80, or the abstract `TICK(n)`, which takes any
natural number (R80, D9; log entry 11). -/
inductive Request where
  | word (w : OpWord)
  | tick (n : Nat)
  deriving DecidableEq, Repr

/-- What the environment is handed (R275): the value returned by a status read, the value returned by a SAMPLE, the
address of a DMC fetch (log entry 3). -/
inductive Event where
  | status (r : Byte)
  | sample (ch : Channel) (y : Rat)
  | fetch (a : Addr)
  deriving DecidableEq, Repr

/-- The Mapper collaborator as the block sees it (R66; log entry 5): the answers to the coming fetches, as far as the
environment has given them, and how many fetches have been made. -/
structure Mapper where
  answers : List Byte
  fetchCount : Nat
  deriving DecidableEq, Repr

end Sys2Proof.Machine
end

