-- ==== Sys2Proof/Machine/PowerOn.lean ====
section
/-! DEFINITION. The power-on values of the units: the table of spec/10_state.md R38. Every value but `lfsr` = 1, the
4-step mode and the IRQ not inhibited is the spec's decision D19 (log entry 8). -/

namespace Sys2Proof.Machine

/-- The envelope rows of R38. -/
def envelopeAtPowerOn : Envelope where
  volume := 0
  constantVolume := false
  loop := false
  decayCounter := 0
  divider := 1

/-- The sweep rows of R38. -/
def sweepAtPowerOn : Sweep where
  enabled := false
  period := 0
  negateDirection := false
  shiftCount := 0
  divider := 1
  targetPeriod := 0

/-- The length-counter rows of R38. -/
def lengthCounterAtPowerOn : LengthCounter where
  counter := 0
  halt := false

/-- The `pulse[p]` rows of R38. -/
def pulseAtPowerOn : Pulse where
  duty := 0
  timerPeriod := 0
  lengthIndex := 0
  enabled := false
  phase := 0
  env := envelopeAtPowerOn
  sweep := sweepAtPowerOn
  len := lengthCounterAtPowerOn

/-- The `tri` rows of R38. -/
def triangleAtPowerOn : Triangle where
  timerPeriod := 0
  lengthIndex := 0
  enabled := false
  phase := 0
  len := lengthCounterAtPowerOn
  lin := { counter := 0, reloadValue := 0, reloadFlag := false, controlFlag := false }

/-- The `noise` rows of R38. -/
def noiseAtPowerOn : Noise where
  mode := .long
  periodIndex := 0
  lengthIndex := 0
  enabled := false
  phase := 0
  lfsr := 1
  env := envelopeAtPowerOn
  len := lengthCounterAtPowerOn

/-- The `dmc` rows of R38. -/
def dmcAtPowerOn : Dmc where
  irqEnable := false
  loopFlag := false
  rateIndex := 0
  startReg := 0
  lengthReg := 0
  sampleAddress := 0xC000
  bytesRemaining := 0
  bitBuffer := 0
  bitsRemaining := 0
  outputLevel := 0
  enabled := false
  phase := 0
  irqFlag := false

/-- The `frame` rows of R38. -/
def frameAtPowerOn : FrameSequencer where
  cycleAccumulator := 0
  step := 0
  mode := .fourStep
  irqInhibit := false
  irqFlag := false

end Sys2Proof.Machine
end

