-- ==== Sys2Proof/Config.lean ====
section
/-! DEFINITION. The configuration of the block (spec/00_scope.md R13 to R15, spec/92_eei_decisions.md "Open
parameters"), and the two free values of the model, opaque constants without a body. The default contents of the
tables are definitions of Machine/Tables.lean. -/

namespace Sys2Proof

/-- `DIVIDER_CONVENTION` (R15, R190): what "underflows" means for the envelope and sweep dividers. -/
inductive DividerConvention where
  /-- `ZERO_AFTER_DECREMENT`, the spec's reading: decrement, saturating at 0; the divider underflows if it is then 0. -/
  | zeroAfterDecrement
  /-- `BELOW_ZERO`, the named alternative: a divider that is 0 before the tick underflows; any other decrements. -/
  | belowZero
  deriving DecidableEq, Repr

/-- The open parameters of the block, plain data carried in `State` and written by no operation, so that a claim
about every state is a claim about every configuration (log entry 4). -/
structure Config where
  /-- `FS`, the output sample rate in Hz, a positive rational the spec gives no value for (R13). -/
  fs : Rat
  /-- `LENGTH_TABLE`, the value a Reset loads into a length counter (R14, R101). -/
  lengthTable : Vector Nat 32
  /-- `NOISE_PERIOD_TABLE`, CPU cycles per shift-register step (R14, R102). -/
  noisePeriodTable : Vector Nat 16
  /-- `DMC_RATE_TABLE`, CPU cycles per consumed bit (R14, R103). -/
  dmcRateTable : Vector Nat 16
  /-- `DIVIDER_CONVENTION` (R15). -/
  dividerConvention : DividerConvention
  deriving DecidableEq, Repr

/-- What the spec requires of the open parameters: `FS` positive (R13); every table entry nonzero
(spec/92_eei_decisions.md "Open parameters"); the length entries within the counter's range 0..255 (R27); and the
three entries of `LENGTH_TABLE` that the source gives, as R14 asks. -/
abbrev Config.WellFormed (c : Config) : Prop :=
  0 < c.fs
  ∧ (∀ i : Fin 32, 1 ≤ c.lengthTable[i] ∧ c.lengthTable[i] ≤ 255)
  ∧ (∀ i : Fin 16, 1 ≤ c.noisePeriodTable[i])
  ∧ (∀ i : Fin 16, 1 ≤ c.dmcRateTable[i])
  ∧ c.lengthTable[0] = 0x0A ∧ c.lengthTable[1] = 0xFE ∧ c.lengthTable[2] = 0x14

/-- FREE VALUE (log entry 4): a pair (p, q) that stands for the sample rate (p + 1) / (q + 1), so positive whatever
the pair is. The spec gives `FS` no value (R13), so nothing in Lean can evaluate it. -/
opaque Config.freeSampleRate : Nat × Nat

/-- FREE VALUE (log entry 5): the byte the Mapper collaborator answers to the block's n-th fetch, made at the given
address, when the environment has left no answer in the state. Any byte, and not the same byte twice for one address
(R66): the count is an argument. -/
opaque Config.freeMapperByte : Nat → Addr → Byte

end Sys2Proof
end

