-- ==== Sys2Proof/Machine/Tables.lean ====
section
/-! DEFINITION. The constants of the block and the default contents of its tables (spec/00_scope.md R11, R12, R14;
spec/30_encoding.md R101 to R104). -/

namespace Sys2Proof.Machine

/-- `FRAME_STEP_CYCLES` (R11): CPU cycles per step of the frame sequencer. -/
def frameStepCycles : Nat := 7457

/-- `CPU_CLOCK` (R12): 1789772.5 Hz, exactly 3579545/2. -/
def cpuClock : Rat := 3579545 / 2

/-- `LENGTH_TABLE` (R101); entries 0 to 2 are the source's, the others general knowledge (log entry 6). -/
def lengthTable : Vector Nat 32 :=
  #v[10, 254, 20, 2, 40, 4, 80, 6, 160, 8, 60, 10, 14, 12, 26, 14,
     12, 16, 24, 18, 48, 20, 96, 22, 192, 24, 72, 26, 16, 28, 32, 30]

/-- `NOISE_PERIOD_TABLE` (R102), in CPU cycles per shift-register step (log entry 6). -/
def noisePeriodTable : Vector Nat 16 :=
  #v[4, 8, 16, 32, 64, 96, 128, 160, 202, 254, 380, 508, 762, 1016, 2034, 4068]

/-- `DMC_RATE_TABLE` (R103), in CPU cycles per consumed bit (log entry 6). -/
def dmcRateTable : Vector Nat 16 :=
  #v[428, 380, 340, 320, 286, 254, 226, 214, 190, 160, 142, 128, 106, 84, 72, 54]

/-- `DUTY` (R104): the fraction of the phase cycle during which the pulse output is positive. -/
def dutyTable : Vector Rat 4 := #v[1 / 8, 1 / 4, 1 / 2, 3 / 4]

/-- The configuration at reset: the tables of R101 to R103, `ZERO_AFTER_DECREMENT` (R190, log entry 7), and a sample
rate that is a free value (R13, log entry 4). -/
def defaultConfig : Config where
  fs := (Config.freeSampleRate.1 + 1 : Rat) / (Config.freeSampleRate.2 + 1 : Rat)
  lengthTable := lengthTable
  noisePeriodTable := noisePeriodTable
  dmcRateTable := dmcRateTable
  dividerConvention := .zeroAfterDecrement

end Sys2Proof.Machine
end

