-- ==== Sys2Proof/Machine/State.lean ====
section
/-! DEFINITION. The state of the machine: the record of spec/10_state.md R23, the open parameters of the block, and the
fields that stand for the environment; its reset; the reasons a step can stop. -/

namespace Sys2Proof.Machine

/-- Everything the spec gives the block (R23), its open parameters (R13 to R15), and the environment's side: what has
been issued and not yet applied, the Mapper's answers, and what has been handed out (log entries 1, 3, 5). -/
structure State where
  cfg : Config
  /-- The spec's `pulse[0]`, registers $4000..$4003. -/
  pulse1 : Pulse
  /-- The spec's `pulse[1]`, registers $4004..$4007. -/
  pulse2 : Pulse
  tri : Triangle
  noise : Noise
  dmc : Dmc
  frame : FrameSequencer
  mapper : Mapper
  /-- Operations issued and not yet applied, oldest first (R8). -/
  pending : List Request
  /-- Values returned and addresses fetched, oldest first (R275). -/
  trace : List Event
  deriving DecidableEq, Repr

/-- The block has no faults: it "raises no synchronous exception" and "No operation can fail" (spec/60_exceptions.md
R250). The type has no constructor, so no step can fault (log entry 14: safe). -/
inductive Fault where
  deriving DecidableEq, Repr

/-- The operations the model declines to give a meaning (R250). All are raised by `step`, from the decoder's verdict;
no meaning of an operation refuses. -/
inductive Refusal where
  /-- Raised by an arm of `exec` for an operation without a meaning; no arm raises it. Safe. -/
  | notModelled (mnemonic : String)
  /-- Raised by `step` on a READ of a window address other than $4015: the spec gives no value and says to refuse
  (R65, R164, U1). Safe: the run stops where hardware would answer something. -/
  | readNotStatus (a : Addr)
  /-- Raised by `step` on a word that spells no operation: kind 100..111, or a SAMPLE of no channel (R99(c)). Safe. -/
  | noSuchOperation
  /-- Raised by `step` on a READ or WRITE outside $4000..$4017, "never handed to the block" (R60, R72). Safe. -/
  | outsideWindow (a : Addr)
  deriving DecidableEq, Repr

/-- The state at power-on: the table of R38 (log entry 8), the open parameters at their defaults (log entries 4, 6, 7),
nothing issued, answered or handed out (log entries 2, 3, 5). -/
def State.reset : State where
  cfg := defaultConfig
  pulse1 := pulseAtPowerOn
  pulse2 := pulseAtPowerOn
  tri := triangleAtPowerOn
  noise := noiseAtPowerOn
  dmc := dmcAtPowerOn
  frame := frameAtPowerOn
  mapper := { answers := [], fetchCount := 0 }
  pending := []
  trace := []

/-- The state with its `pulse1` replaced. -/
def State.setPulse1 (s : State) (x : Pulse) : State := { s with pulse1 := x }

/-- The state with its `pulse2` replaced. -/
def State.setPulse2 (s : State) (x : Pulse) : State := { s with pulse2 := x }

/-- The state with its `tri` replaced. -/
def State.setTri (s : State) (x : Triangle) : State := { s with tri := x }

/-- The state with its `noise` replaced. -/
def State.setNoise (s : State) (x : Noise) : State := { s with noise := x }

/-- The state with its `dmc` replaced. -/
def State.setDmc (s : State) (x : Dmc) : State := { s with dmc := x }

/-- The state with its `frame` replaced. -/
def State.setFrame (s : State) (x : FrameSequencer) : State := { s with frame := x }

/-- The state with its `mapper` replaced. -/
def State.setMapper (s : State) (x : Mapper) : State := { s with mapper := x }

/-- The state with its `pending` replaced. -/
def State.setPending (s : State) (x : List Request) : State := { s with pending := x }

/-- The state with its `trace` replaced. -/
def State.setTrace (s : State) (x : List Event) : State := { s with trace := x }

/-- The state after handing `e` to the environment (R275). -/
def State.emit (s : State) (e : Event) : State := s.setTrace (s.trace ++ [e])

end Sys2Proof.Machine
end

