-- ==== Sys2Proof/Machine/Flags.lean ====
section
/-! DEFINITION. The two interrupt flags, the interrupt output and the status byte (spec/10_state.md R22,
spec/30_encoding.md R97, spec/60_exceptions.md R251, R252). The block has no condition codes, raises no exception and
takes no trap (R22, R250, R256): setting a request flag is all it does towards an interrupt. -/

namespace Sys2Proof.Machine

/-- Step 4 of the 4-step sequence sets the frame IRQ flag unless inhibited; a set flag stays set (R185). -/
def FrameSequencer.requestIrq (f : FrameSequencer) : FrameSequencer :=
  if f.irqInhibit then f else { f with irqFlag := true }

/-- The frame IRQ flag cleared (R161, R162). -/
def FrameSequencer.clearIrq (f : FrameSequencer) : FrameSequencer := { f with irqFlag := false }

/-- The end of a non-looping sample sets the DMC IRQ flag if it is enabled (R219). -/
def Dmc.requestIrq (d : Dmc) : Dmc := if d.irqEnable then { d with irqFlag := true } else d

/-- The DMC IRQ flag cleared (R138, R160). -/
def Dmc.clearIrq (d : Dmc) : Dmc := { d with irqFlag := false }

/-- `irq_pending()`, the block's interrupt output (R252): the OR of the two flags. -/
def irqPending (s : State) : Bool := s.frame.irqFlag || s.dmc.irqFlag

/-- The status byte, bit 7 first (R97): DMC IRQ, frame IRQ, 0, then "counter nonzero" of DMC, noise, triangle, pulse 2,
pulse 1. -/
def statusByte (s : State) : Byte :=
  BitVec.ofBool s.dmc.irqFlag ++ BitVec.ofBool s.frame.irqFlag ++ 0#1
    ++ BitVec.ofBool (s.dmc.bytesRemaining != 0) ++ BitVec.ofBool (s.noise.len.counter != 0)
    ++ BitVec.ofBool (s.tri.len.counter != 0) ++ BitVec.ofBool (s.pulse2.len.counter != 0)
    ++ BitVec.ofBool (s.pulse1.len.counter != 0)

end Sys2Proof.Machine
end

