-- ==== Sys2Proof/Machine/Operands.lean ====
section
/-! DEFINITION. The fields of a written byte, register by register (spec/30_encoding.md R82 to R98), and the assembly of
the quantities they give (R100). Bits marked unused there are read by nothing here (R99(b)). -/

namespace Sys2Proof.Machine

/-- $4000/$4004 bits 7:6, duty (R82). -/
def dutyField (d : Byte) : BitVec 2 := d.extractLsb' 6 2

/-- $4000/$4004/$400C bit 5, halt / envelope loop (R82, R89). -/
def haltField (d : Byte) : Bool := d.getLsbD 5

/-- $4000/$4004/$400C bit 4, constant volume (R82, R89). -/
def constantVolumeField (d : Byte) : Bool := d.getLsbD 4

/-- $4000/$4004/$400C bits 3:0, volume / envelope rate (R82, R89). -/
def volumeField (d : Byte) : BitVec 4 := d.extractLsb' 0 4

/-- $4001/$4005 bit 7, sweep enable (R83). -/
def sweepEnableField (d : Byte) : Bool := d.getLsbD 7

/-- $4001/$4005 bits 6:4, sweep period (R83). -/
def sweepPeriodField (d : Byte) : BitVec 3 := d.extractLsb' 4 3

/-- $4001/$4005 bit 3, negate (R83). -/
def negateField (d : Byte) : Bool := d.getLsbD 3

/-- $4001/$4005 bits 2:0, shift count (R83). -/
def shiftCountField (d : Byte) : BitVec 3 := d.extractLsb' 0 3

/-- $4003/$4007/$400B/$400F bits 7:3, length-load index (R85, R91). -/
def lengthIndexField (d : Byte) : BitVec 5 := d.extractLsb' 3 5

/-- The period after a low-register write: `t[10:8] ++ d` (R84, R100(a)). -/
def withPeriodLow (t : BitVec 11) (d : Byte) : BitVec 11 := t.extractLsb' 8 3 ++ d

/-- The period after a high-register write: `d[2:0] ++ t[7:0]` (R85, R100(a)). -/
def withPeriodHigh (t : BitVec 11) (d : Byte) : BitVec 11 := d.extractLsb' 0 3 ++ t.extractLsb' 0 8

/-- $4008 bit 7, control / length halt (R86). -/
def linearControlField (d : Byte) : Bool := d.getLsbD 7

/-- $4008 bits 6:0, linear counter reload value (R86). -/
def linearReloadField (d : Byte) : BitVec 7 := d.extractLsb' 0 7

/-- $400E bit 7, mode, 1 = short (R90). -/
def noiseModeField (d : Byte) : NoiseMode := if d.getLsbD 7 then .short else .long

/-- $400E bits 3:0, period index (R90). -/
def noisePeriodField (d : Byte) : BitVec 4 := d.extractLsb' 0 4

/-- $4010 bit 7, IRQ enable (R92). -/
def dmcIrqEnableField (d : Byte) : Bool := d.getLsbD 7

/-- $4010 bit 6, loop (R92). -/
def dmcLoopField (d : Byte) : Bool := d.getLsbD 6

/-- $4010 bits 3:0, rate index (R92). -/
def dmcRateField (d : Byte) : BitVec 4 := d.extractLsb' 0 4

/-- $4011 bits 6:0, output level (R93). -/
def levelField (d : Byte) : Nat := (d.extractLsb' 0 7).toNat

/-- $4015 bit 0, pulse 1 enable (R96). -/
def pulse1EnableField (d : Byte) : Bool := d.getLsbD 0

/-- $4015 bit 1, pulse 2 enable (R96). -/
def pulse2EnableField (d : Byte) : Bool := d.getLsbD 1

/-- $4015 bit 2, triangle enable (R96). -/
def triEnableField (d : Byte) : Bool := d.getLsbD 2

/-- $4015 bit 3, noise enable (R96). -/
def noiseEnableField (d : Byte) : Bool := d.getLsbD 3

/-- $4015 bit 4, DMC enable (R96). -/
def dmcEnableField (d : Byte) : Bool := d.getLsbD 4

/-- $4017 bit 7, mode, 1 = 5-step (R98). -/
def frameModeField (d : Byte) : FrameMode := if d.getLsbD 7 then .fiveStep else .fourStep

/-- $4017 bit 6, IRQ inhibit (R98). -/
def irqInhibitField (d : Byte) : Bool := d.getLsbD 6

/-- The sample address a $4012 byte denotes, `0xC000 + 64 * A` (R94, R100(b)). -/
def dmcStartAddress (a : Byte) : Addr := 0xC000#16 + 64#16 * a.setWidth 16

/-- The sample length a $4013 byte denotes, `16 * L + 1` bytes (R95, R100(c)). -/
def dmcByteCount (l : Byte) : Nat := 16 * l.toNat + 1

end Sys2Proof.Machine
end

