-- ==== Sys2Proof/Machine/Ops.lean ====
section
/-! DEFINITION. The named procedures and functions of the spec over the units and the state: the Resets
(spec/40_writes_pulse.md, spec/41_writes_triangle_noise_dmc.md), the ticks and the frame sequencer
(spec/43_frame_sequencer_and_units.md), the sample clock, the noise register, the DMC engine
(spec/44_synthesizers.md), the fetch port (spec/20_memory.md R66). The block takes no exception and has no return from
one (spec/60_exceptions.md R256), so no such operation stands here. -/

namespace Sys2Proof.Machine

/-! ## Resets -/

/-- The value a Reset loads into a length counter, `LENGTH_TABLE[i]` (R101); a 5-bit index is in range (R100(d)). -/
def lengthLoad (cfg : Config) (i : BitVec 5) : Nat :=
  cfg.lengthTable[i.toNat]'(by have := i.isLt; omega)

/-- `EnvelopeRestart(e)` (R115). -/
def envelopeRestart (e : Envelope) : Envelope :=
  { e with decayCounter := 15, divider := e.volume.toNat + 1 }

/-- `PulseReset(p)` (R116). -/
def pulseReset (cfg : Config) (c : Pulse) : Pulse :=
  { c with
    phase := 0
    len := { c.len with counter := lengthLoad cfg c.lengthIndex }
    env := envelopeRestart c.env }

/-- `TriangleReset()` (R133). -/
def triangleReset (cfg : Config) (t : Triangle) : Triangle :=
  { t with
    phase := 0
    len := { t.len with counter := lengthLoad cfg t.lengthIndex }
    lin := { t.lin with counter := t.lin.reloadValue.toNat, reloadFlag := true } }

/-- `NoiseReset()` (R137). -/
def noiseReset (cfg : Config) (n : Noise) : Noise :=
  { n with
    phase := 0
    len := { n.len with counter := lengthLoad cfg n.lengthIndex }
    env := envelopeRestart n.env }

/-- `DmcRestart()` (R143). -/
def dmcRestart (d : Dmc) : Dmc :=
  { d with sampleAddress := dmcStartAddress d.startReg, bytesRemaining := dmcByteCount d.lengthReg }

/-- `DmcReset()` (R142). -/
def dmcReset (d : Dmc) : Dmc := dmcRestart { d with phase := 0 }

/-- A warm reset by the environment: the block is put back into the power-on state (R271); the open parameters and the
environment's side stay. No operation does this (log entry 19). -/
def resetBlock (s : State) : State :=
  { s with
    pulse1 := pulseAtPowerOn
    pulse2 := pulseAtPowerOn
    tri := triangleAtPowerOn
    noise := noiseAtPowerOn
    dmc := dmcAtPowerOn
    frame := frameAtPowerOn }

/-! ## Ticks of the units -/

/-- One tick of an envelope or sweep divider (R190): `none` when it underflows, else its new value. -/
def dividerTick (conv : DividerConvention) (n : Nat) : Option Nat :=
  match conv with
  | .zeroAfterDecrement => if n - 1 = 0 then none else some (n - 1)
  | .belowZero => if n = 0 then none else some (n - 1)

/-- The part of `EnvelopeTick` done when the divider underflows (R186). -/
def envelopeUnderflow (e : Envelope) : Envelope :=
  { e with
    divider := e.volume.toNat + 1
    decayCounter :=
      if 0 < e.decayCounter then e.decayCounter - 1
      else if e.loop then 15
      else e.decayCounter }

/-- `EnvelopeTick(e)` (R186). -/
def envelopeTick (conv : DividerConvention) (e : Envelope) : Envelope :=
  match dividerTick conv e.divider with
  | some n => { e with divider := n }
  | none => envelopeUnderflow e

/-- `EnvelopeVolume(e)` (R187). -/
def envelopeVolume (e : Envelope) : Nat :=
  if e.constantVolume then e.volume.toNat else e.decayCounter

/-- `LengthTick(l)` (R189). -/
def lengthTick (l : LengthCounter) : LengthCounter :=
  if !l.halt ∧ 0 < l.counter then { l with counter := l.counter - 1 } else l

/-- `LinearTick()` (R191). -/
def linearTick (k : LinearCounter) : LinearCounter :=
  { k with
    counter :=
      if k.reloadFlag then k.reloadValue.toNat
      else if 0 < k.counter then k.counter - 1
      else k.counter
    reloadFlag := k.reloadFlag && k.controlFlag }

/-- The sweep's target, `period ± (period >> shift_count)` over the integers (R188); the difference is never negative,
since `delta <= timer_period`. -/
def sweepTarget (c : Pulse) : Nat :=
  let delta := c.timerPeriod.toNat >>> c.sweep.shiftCount.toNat
  if c.sweep.negateDirection then c.timerPeriod.toNat - delta else c.timerPeriod.toNat + delta

/-- What a computed target does: outside [8, 0x7FF] it mutes, inside it becomes the period (R188). -/
def sweepApply (c : Pulse) (target : Nat) : Pulse :=
  if target < 8 ∨ 0x7FF < target then
    { c with sweep := { c.sweep with targetPeriod := target }, len := { c.len with counter := 0 } }
  else
    { c with sweep := { c.sweep with targetPeriod := target }, timerPeriod := BitVec.ofNat 11 target }

/-- The part of `SweepTick` done when the divider underflows (R188). -/
def sweepUnderflow (c : Pulse) : Pulse :=
  let c' := { c with sweep := { c.sweep with divider := c.sweep.period.toNat + 1 } }
  if c.sweep.enabled ∧ c.sweep.shiftCount ≠ 0 ∧ c.len.counter ≠ 0 then sweepApply c' (sweepTarget c) else c'

/-- `SweepTick(p)` (R188), the same for both pulse channels. -/
def sweepTick (conv : DividerConvention) (c : Pulse) : Pulse :=
  match dividerTick conv c.sweep.divider with
  | some n => { c with sweep := { c.sweep with divider := n } }
  | none => sweepUnderflow c

/-! ## The frame sequencer -/

/-- The quarter-frame work of a pulse channel (R183). -/
def pulseQuarter (conv : DividerConvention) (c : Pulse) : Pulse := { c with env := envelopeTick conv c.env }

/-- The half-frame work of a pulse channel: the length tick, then the sweep tick (R184, D8). -/
def pulseHalf (conv : DividerConvention) (c : Pulse) : Pulse :=
  sweepTick conv { c with len := lengthTick c.len }

/-- `Quarter()`, the quarter-frame tick (R183). -/
def quarter (s : State) : State :=
  { s with
    pulse1 := pulseQuarter s.cfg.dividerConvention s.pulse1
    pulse2 := pulseQuarter s.cfg.dividerConvention s.pulse2
    noise := { s.noise with env := envelopeTick s.cfg.dividerConvention s.noise.env }
    tri := { s.tri with lin := linearTick s.tri.lin } }

/-- `Half()`, the half-frame tick (R184). -/
def half (s : State) : State :=
  { s with
    pulse1 := pulseHalf s.cfg.dividerConvention s.pulse1
    pulse2 := pulseHalf s.cfg.dividerConvention s.pulse2
    tri := { s.tri with len := lengthTick s.tri.len }
    noise := { s.noise with len := lengthTick s.noise.len } }

/-- The work of the step numbered n of the 4-step sequence (R181). -/
def fourStepWork (n : Nat) (s : State) : State :=
  let s := quarter s
  let s := if n = 2 ∨ n = 4 then half s else s
  if 4 ≤ n then s.setFrame { s.frame.requestIrq with step := 0 } else s

/-- The work of the step numbered n of the 5-step sequence (R181, C2): step 5 only wraps. -/
def fiveStepWork (n : Nat) (s : State) : State :=
  let s := if n ≤ 4 then quarter s else s
  let s := if n = 1 ∨ n = 3 then half s else s
  if 5 ≤ n then s.setFrame { s.frame with step := 0 } else s

/-- `FrameStep()` (R181). -/
def frameStep (s : State) : State :=
  let n := s.frame.step + 1
  let s := s.setFrame { s.frame with step := n }
  match s.frame.mode with
  | .fourStep => fourStepWork n s
  | .fiveStep => fiveStepWork n s

/-- The loop of TICK (R180): while the accumulator holds 7457 or more, subtract 7457 and fire a step. The first argument
bounds the number of rounds; `tickCycles` gives the number the loop needs. -/
def frameLoop : Nat → State → State
  | 0, s => s
  | rounds + 1, s =>
    if frameStepCycles ≤ s.frame.cycleAccumulator then
      frameLoop rounds
        (frameStep (s.setFrame { s.frame with cycleAccumulator := s.frame.cycleAccumulator - frameStepCycles }))
    else s

/-- The effect of `TICK(n)` (R180). -/
def tickCycles (n : Nat) (s : State) : State :=
  let total := s.frame.cycleAccumulator + n
  frameLoop (total / frameStepCycles) (s.setFrame { s.frame with cycleAccumulator := total })

/-! ## The sample clock and the channel frequencies -/

/-- `PhaseAdvance(ph, f)` (R210): the new phase, and the number of wraps `k`. -/
def phaseAdvance (cfg : Config) (ph f : Rat) : Rat × Nat :=
  let x := ph + f / cfg.fs
  (x - x.floor, x.floor.toNat)

/-- The frequency of a pulse channel in Hz (R211). -/
def pulseFrequency (c : Pulse) : Rat := cpuClock / (16 * (c.timerPeriod.toNat + 1))

/-- The frequency of the triangle in Hz (R211). -/
def triangleFrequency (t : Triangle) : Rat := cpuClock / (32 * (t.timerPeriod.toNat + 1))

/-- Shift-register steps per second (R211); a 4-bit index is in range (R100(d)). -/
def noiseFrequency (cfg : Config) (n : Noise) : Rat :=
  cpuClock / (cfg.noisePeriodTable[n.periodIndex.toNat]'(by have := n.periodIndex.isLt; omega) : Nat)

/-- DMC bits per second (R211); a 4-bit index is in range (R100(d)). -/
def dmcFrequency (cfg : Config) (d : Dmc) : Rat :=
  cpuClock / (cfg.dmcRateTable[d.rateIndex.toNat]'(by have := d.rateIndex.isLt; omega) : Nat)

/-! ## The synthesizers -/

/-- `Active(pulse[p])` (R222). -/
def Pulse.active (c : Pulse) : Bool := c.enabled && c.len.counter != 0

/-- `Active(tri)` (R222). -/
def Triangle.active (t : Triangle) : Bool := t.enabled && t.len.counter != 0 && t.lin.counter != 0

/-- `Active(noise)` (R222). -/
def Noise.active (n : Noise) : Bool := n.enabled && n.len.counter != 0

/-- `DUTY[c.duty]` (R104); a 2-bit index is in range (R100(d)). -/
def Pulse.dutyThreshold (c : Pulse) : Rat := dutyTable[c.duty.toNat]'(by have := c.duty.isLt; omega)

/-- The phase part of `PulseSample(p)` (R214). -/
def pulseAdvance (cfg : Config) (c : Pulse) : Pulse :=
  { c with phase := (phaseAdvance cfg c.phase (pulseFrequency c)).1 }

/-- The value `PulseSample(p)` returns, from the state after the advance (R214). -/
def pulseOutput (c : Pulse) : Rat :=
  if c.active then
    if c.phase < c.dutyThreshold then (envelopeVolume c.env : Rat) / 15 else -((envelopeVolume c.env : Rat) / 15)
  else 0

/-- The phase part of `SAMPLE.TRI` (R215). -/
def triangleAdvance (cfg : Config) (t : Triangle) : Triangle :=
  { t with phase := (phaseAdvance cfg t.phase (triangleFrequency t)).1 }

/-- The value `SAMPLE.TRI` returns, `1 - 4 * |phase - 1/2|` when active (R215). -/
def triangleOutput (t : Triangle) : Rat := if t.active then 1 - 4 * |t.phase - 1 / 2| else 0

/-- One step of the 15-bit shift register (R216). -/
def lfsrStep (mode : NoiseMode) (r : BitVec 15) : BitVec 15 :=
  let tap := match mode with
    | .short => r.getLsbD 6
    | .long => r.getLsbD 1
  BitVec.ofBool (r.getLsbD 0 ^^ tap) ++ r.extractLsb' 1 14

/-- k steps of the shift register (R221). -/
def lfsrSteps (mode : NoiseMode) : Nat → BitVec 15 → BitVec 15
  | 0, r => r
  | k + 1, r => lfsrSteps mode k (lfsrStep mode r)

/-- The phase and shift-register part of `SAMPLE.NOI` (R221). -/
def noiseAdvance (cfg : Config) (n : Noise) : Noise :=
  let adv := phaseAdvance cfg n.phase (noiseFrequency cfg n)
  { n with phase := adv.1, lfsr := lfsrSteps n.mode adv.2 n.lfsr }

/-- The value `SAMPLE.NOI` returns, from the state after the advance (R221). -/
def noiseOutput (n : Noise) : Rat :=
  if n.active then
    if n.lfsr.getLsbD 0 then 0 else (envelopeVolume n.env : Rat) / 15
  else 0

/-- `Mix(y0, y1, y2, y3, y4)` (R223), output only. -/
def mix (y0 y1 y2 y3 y4 : Rat) : Rat := y0 + y1 + y2 + y3 + y4

/-! ## The DMC engine -/

/-- `MemRead(addr, 1)` (R66; log entry 5): the environment's next answer, or a free value when it has given none. The
address is handed to the Mapper. -/
def memRead (a : Addr) (s : State) : Byte × State :=
  let b := match s.mapper.answers with
    | b :: _ => b
    | [] => Config.freeMapperByte s.mapper.fetchCount a
  (b, (s.setMapper { answers := s.mapper.answers.tail, fetchCount := s.mapper.fetchCount + 1 }).emit (.fetch a))

/-- The address after a fetch, wrapping 0xFFFF to 0x8000 (R219). -/
def nextSampleAddress (a : Addr) : Addr := if a = 0xFFFF#16 then 0x8000#16 else a + 1#16

/-- The end-of-sample action of `DmcFetch` (R219). -/
def dmcSampleEnd (d : Dmc) : Dmc :=
  if d.bytesRemaining = 0 then
    if d.loopFlag then dmcRestart d else d.requestIrq
  else d

/-- `DmcFetch` on the DMC's own fields, once the byte has come (R219). -/
def dmcRefill (b : Byte) (d : Dmc) : Dmc :=
  dmcSampleEnd { d with
    bitBuffer := b
    bitsRemaining := 8
    sampleAddress := nextSampleAddress d.sampleAddress
    bytesRemaining := d.bytesRemaining - 1 }

/-- `DmcFetch()` (R219). -/
def dmcFetch (s : State) : State :=
  let r := memRead s.dmc.sampleAddress s
  r.2.setDmc (dmcRefill r.1 s.dmc)

/-- The consumption part of `DmcClock()` (R218): bit 0 moves the level by 2 within [0, 126]. -/
def dmcConsume (d : Dmc) : Dmc :=
  if 0 < d.bitsRemaining then
    { d with
      outputLevel := if d.bitBuffer.getLsbD 0 then min (d.outputLevel + 2) 126 else d.outputLevel - 2
      bitBuffer := d.bitBuffer >>> 1
      bitsRemaining := d.bitsRemaining - 1 }
  else d

/-- `DmcClock()`, one bit interval (R218). -/
def dmcClock (s : State) : State :=
  let s := s.setDmc (dmcConsume s.dmc)
  if s.dmc.bitsRemaining = 0 ∧ 0 < s.dmc.bytesRemaining then dmcFetch s else s

/-- k bit intervals, in order (R217). -/
def dmcClocks : Nat → State → State
  | 0, s => s
  | k + 1, s => dmcClocks k (dmcClock s)

/-- The DMC output, `(output_level - 64) / 64` (R220). -/
def dmcOutput (d : Dmc) : Rat := ((d.outputLevel : Rat) - 64) / 64

/-! ## What the environment has issued -/

/-- The operation a request spells (R80, R99): a word through the decoder, the abstract `TICK(n)` as it is. -/
def Request.operation (r : Request) : Except DecodeError Instr :=
  match r with
  | .word w => decode w
  | .tick n => .ok (.tick n)

/-- The refusal of what the decoder rejects (R99(c), R164, R72). -/
def refusalOf (e : DecodeError) : Refusal :=
  match e with
  | .reservedKind _ => .noSuchOperation
  | .noSuchChannel _ _ => .noSuchOperation
  | .readNotStatus a => .readNotStatus a
  | .outsideWindow a => .outsideWindow a

end Sys2Proof.Machine
end

