-- ==== Sys2Proof/Machine/Control.lean ====
section
/-! DEFINITION. The status register, the frame-counter control, and the ignored writes
(spec/42_status_and_frame_control.md). -/

namespace Sys2Proof.Machine

/-- A length counter after an enable bit is written: a cleared bit zeroes it (R160). -/
def LengthCounter.gate (on : Bool) (l : LengthCounter) : LengthCounter :=
  if on then l else { l with counter := 0 }

/-- The DMC after its enable bit is written (R160): a cleared bit zeroes the byte count, a set bit restarts a sample that
has ended; the DMC IRQ flag is cleared either way. -/
def Dmc.writeEnable (on : Bool) (c : Dmc) : Dmc :=
  let c := { c with enabled := on }
  let c := if on then (if c.bytesRemaining = 0 then dmcRestart c else c) else { c with bytesRemaining := 0 }
  c.clearIrq

/-- `W4015` (R160). -/
def execW4015 (d : Byte) (s : State) : Host.Outcome State Fault Refusal :=
  .next { s with
    pulse1 := { s.pulse1 with enabled := pulse1EnableField d, len := s.pulse1.len.gate (pulse1EnableField d) }
    pulse2 := { s.pulse2 with enabled := pulse2EnableField d, len := s.pulse2.len.gate (pulse2EnableField d) }
    tri := { s.tri with enabled := triEnableField d, len := s.tri.len.gate (triEnableField d) }
    noise := { s.noise with enabled := noiseEnableField d, len := s.noise.len.gate (noiseEnableField d) }
    dmc := s.dmc.writeEnable (dmcEnableField d) }

/-- `RD4015` (R161): the status byte is handed out, and the frame IRQ flag cleared after it was sampled. -/
def execRd4015 (s : State) : Host.Outcome State Fault Refusal :=
  .next ((s.emit (.status (statusByte s))).setFrame s.frame.clearIrq)

/-- `W4017` (R162): the sequencer restarts on every write; a byte with bit 6 = 1 also clears the frame IRQ flag. -/
def execW4017 (d : Byte) (s : State) : Host.Outcome State Fault Refusal :=
  let f := { s.frame with
    mode := frameModeField d, irqInhibit := irqInhibitField d, step := 0, cycleAccumulator := 0 }
  .next (s.setFrame (if irqInhibitField d then f.clearIrq else f))

/-- `W4009`: no register of the block; no state changes (R163). -/
def execW4009 (_d : Byte) (s : State) : Host.Outcome State Fault Refusal := .next s

/-- `W400D`: no register of the block; no state changes (R163). -/
def execW400D (_d : Byte) (s : State) : Host.Outcome State Fault Refusal := .next s

/-- `W4014`: no register of the block; no state changes (R163). -/
def execW4014 (_d : Byte) (s : State) : Host.Outcome State Fault Refusal := .next s

/-- `W4016`: no register of the block; no state changes (R163). -/
def execW4016 (_d : Byte) (s : State) : Host.Outcome State Fault Refusal := .next s

end Sys2Proof.Machine
end

