-- ==== Sys2Proof/Machine/DmcWrites.lean ====
section
/-! DEFINITION. The register writes of the DMC channel (spec/41_writes_triangle_noise_dmc.md R138 to R143). -/

namespace Sys2Proof.Machine

/-- The fields of a $4010 write, before the flag is looked at (R138). -/
def Dmc.writeControl (d : Byte) (c : Dmc) : Dmc :=
  { c with irqEnable := dmcIrqEnableField d, loopFlag := dmcLoopField d, rateIndex := dmcRateField d }

/-- `W4010` (R138): a byte with bit 7 = 0 also clears the DMC IRQ flag. -/
def execW4010 (d : Byte) (s : State) : Host.Outcome State Fault Refusal :=
  let c := s.dmc.writeControl d
  .next (s.setDmc (if dmcIrqEnableField d then c else c.clearIrq))

/-- `W4011` (R139). -/
def execW4011 (d : Byte) (s : State) : Host.Outcome State Fault Refusal :=
  .next (s.setDmc { s.dmc with outputLevel := levelField d })

/-- `W4012` (R140). -/
def execW4012 (d : Byte) (s : State) : Host.Outcome State Fault Refusal :=
  .next (s.setDmc { s.dmc with startReg := d })

/-- `W4013` (R141): the length first, then the Reset (R142). -/
def execW4013 (d : Byte) (s : State) : Host.Outcome State Fault Refusal :=
  .next (s.setDmc (dmcReset { s.dmc with lengthReg := d }))

end Sys2Proof.Machine
end

