-- ==== Sys2Proof/Machine/NoiseWrites.lean ====
section
/-! DEFINITION. The register writes of the noise channel (spec/41_writes_triangle_noise_dmc.md R134 to R137). -/

namespace Sys2Proof.Machine

/-- `W400C` (R134). -/
def execW400C (d : Byte) (s : State) : Host.Outcome State Fault Refusal :=
  .next (s.setNoise { s.noise with
    len := { s.noise.len with halt := haltField d }
    env := { s.noise.env with
      loop := haltField d, constantVolume := constantVolumeField d, volume := volumeField d } })

/-- `W400E` (R135). -/
def execW400E (d : Byte) (s : State) : Host.Outcome State Fault Refusal :=
  .next (s.setNoise { s.noise with mode := noiseModeField d, periodIndex := noisePeriodField d })

/-- `W400F` (R136): the index first, then the Reset (R137). -/
def execW400F (d : Byte) (s : State) : Host.Outcome State Fault Refusal :=
  .next (s.setNoise (noiseReset s.cfg { s.noise with lengthIndex := lengthIndexField d }))

end Sys2Proof.Machine
end

