-- ==== Sys2Proof/Machine/PulseWrites.lean ====
section
/-! DEFINITION. The register writes of the two pulse channels (spec/40_writes_pulse.md). -/

namespace Sys2Proof.Machine

/-- The fields a volume/envelope/halt/duty write sets, and nothing else (R111, R117). -/
def Pulse.writeControl (d : Byte) (c : Pulse) : Pulse :=
  { c with
    duty := dutyField d
    len := { c.len with halt := haltField d }
    env := { c.env with loop := haltField d, constantVolume := constantVolumeField d, volume := volumeField d } }

/-- The fields a sweep write sets, and nothing else (R112, R118). -/
def Pulse.writeSweep (d : Byte) (c : Pulse) : Pulse :=
  { c with
    sweep := { c.sweep with
      enabled := sweepEnableField d
      period := sweepPeriodField d
      negateDirection := negateField d
      shiftCount := shiftCountField d } }

/-- The period's low byte written (R113, R119). -/
def Pulse.writePeriodLow (d : Byte) (c : Pulse) : Pulse :=
  { c with timerPeriod := withPeriodLow c.timerPeriod d }

/-- The period's high bits and the length index written, then the Reset (R114, R120). -/
def Pulse.writePeriodHigh (cfg : Config) (d : Byte) (c : Pulse) : Pulse :=
  pulseReset cfg { c with timerPeriod := withPeriodHigh c.timerPeriod d, lengthIndex := lengthIndexField d }

/-- `W4000` (R111). -/
def execW4000 (d : Byte) (s : State) : Host.Outcome State Fault Refusal :=
  .next (s.setPulse1 (s.pulse1.writeControl d))

/-- `W4001` (R112). -/
def execW4001 (d : Byte) (s : State) : Host.Outcome State Fault Refusal :=
  .next (s.setPulse1 (s.pulse1.writeSweep d))

/-- `W4002` (R113). -/
def execW4002 (d : Byte) (s : State) : Host.Outcome State Fault Refusal :=
  .next (s.setPulse1 (s.pulse1.writePeriodLow d))

/-- `W4003` (R114). -/
def execW4003 (d : Byte) (s : State) : Host.Outcome State Fault Refusal :=
  .next (s.setPulse1 (s.pulse1.writePeriodHigh s.cfg d))

/-- `W4004` (R117). -/
def execW4004 (d : Byte) (s : State) : Host.Outcome State Fault Refusal :=
  .next (s.setPulse2 (s.pulse2.writeControl d))

/-- `W4005` (R118). -/
def execW4005 (d : Byte) (s : State) : Host.Outcome State Fault Refusal :=
  .next (s.setPulse2 (s.pulse2.writeSweep d))

/-- `W4006` (R119). -/
def execW4006 (d : Byte) (s : State) : Host.Outcome State Fault Refusal :=
  .next (s.setPulse2 (s.pulse2.writePeriodLow d))

/-- `W4007` (R120). -/
def execW4007 (d : Byte) (s : State) : Host.Outcome State Fault Refusal :=
  .next (s.setPulse2 (s.pulse2.writePeriodHigh s.cfg d))

end Sys2Proof.Machine
end

