-- ==== Sys2Proof/Machine/Sequencer.lean ====
section
/-! DEFINITION. The TICK operation (spec/43_frame_sequencer_and_units.md R180). -/

namespace Sys2Proof.Machine

/-- `TICK(n)` (R180), n any natural number. -/
def execTick (n : Nat) (s : State) : Host.Outcome State Fault Refusal := .next (tickCycles n s)

end Sys2Proof.Machine
end

