-- ==== Sys2Proof/Machine/Synth.lean ====
section
/-! DEFINITION. The SAMPLE operations of the five synthesizers (spec/44_synthesizers.md). -/

namespace Sys2Proof.Machine

/-- `SAMPLE.P1` (R212): `PulseSample(0)` (R214). -/
def execSampleP1 (s : State) : Host.Outcome State Fault Refusal :=
  let c := pulseAdvance s.cfg s.pulse1
  .next ((s.setPulse1 c).emit (.sample .p1 (pulseOutput c)))

/-- `SAMPLE.P2` (R213): `PulseSample(1)` (R214). -/
def execSampleP2 (s : State) : Host.Outcome State Fault Refusal :=
  let c := pulseAdvance s.cfg s.pulse2
  .next ((s.setPulse2 c).emit (.sample .p2 (pulseOutput c)))

/-- `SAMPLE.TRI` (R215). -/
def execSampleTri (s : State) : Host.Outcome State Fault Refusal :=
  let t := triangleAdvance s.cfg s.tri
  .next ((s.setTri t).emit (.sample .tri (triangleOutput t)))

/-- `SAMPLE.NOI` (R221). -/
def execSampleNoi (s : State) : Host.Outcome State Fault Refusal :=
  let n := noiseAdvance s.cfg s.noise
  .next ((s.setNoise n).emit (.sample .noi (noiseOutput n)))

/-- `SAMPLE.DMC` (R217): the bit clock runs only while the channel is enabled; its phase advances always. -/
def execSampleDmc (s : State) : Host.Outcome State Fault Refusal :=
  let adv := phaseAdvance s.cfg s.dmc.phase (dmcFrequency s.cfg s.dmc)
  let s := s.setDmc { s.dmc with phase := adv.1 }
  let s := if s.dmc.enabled then dmcClocks adv.2 s else s
  .next (s.emit (.sample .dmc (dmcOutput s.dmc)))

end Sys2Proof.Machine
end

