-- ==== Sys2Proof/Machine/TriangleWrites.lean ====
section
/-! DEFINITION. The register writes of the triangle channel (spec/41_writes_triangle_noise_dmc.md R130 to R133). -/

namespace Sys2Proof.Machine

/-- `W4008` (R130). -/
def execW4008 (d : Byte) (s : State) : Host.Outcome State Fault Refusal :=
  .next (s.setTri { s.tri with
    lin := { s.tri.lin with controlFlag := linearControlField d, reloadValue := linearReloadField d }
    len := { s.tri.len with halt := linearControlField d } })

/-- `W400A` (R131). -/
def execW400A (d : Byte) (s : State) : Host.Outcome State Fault Refusal :=
  .next (s.setTri { s.tri with timerPeriod := withPeriodLow s.tri.timerPeriod d })

/-- `W400B` (R132): the fields first, then the Reset (R133). -/
def execW400B (d : Byte) (s : State) : Host.Outcome State Fault Refusal :=
  .next (s.setTri (triangleReset s.cfg { s.tri with
    timerPeriod := withPeriodHigh s.tri.timerPeriod d
    lengthIndex := lengthIndexField d }))

end Sys2Proof.Machine
end

