-- ==== Sys2Proof/Machine/Dispatch.lean ====
section
/-! DEFINITION. The dispatch of an operation to its meaning, one arm per constructor. -/

namespace Sys2Proof.Machine

/-- The effect of one operation, applied atomically and completely (spec/00_scope.md R8). -/
def exec (i : Instr) (s : State) : Host.Outcome State Fault Refusal :=
  match i with
  | .w4000 d => Sys2Proof.Machine.execW4000 d s
  | .w4001 d => Sys2Proof.Machine.execW4001 d s
  | .w4002 d => Sys2Proof.Machine.execW4002 d s
  | .w4003 d => Sys2Proof.Machine.execW4003 d s
  | .w4004 d => Sys2Proof.Machine.execW4004 d s
  | .w4005 d => Sys2Proof.Machine.execW4005 d s
  | .w4006 d => Sys2Proof.Machine.execW4006 d s
  | .w4007 d => Sys2Proof.Machine.execW4007 d s
  | .w4008 d => Sys2Proof.Machine.execW4008 d s
  | .w4009 d => Sys2Proof.Machine.execW4009 d s
  | .w400A d => Sys2Proof.Machine.execW400A d s
  | .w400B d => Sys2Proof.Machine.execW400B d s
  | .w400C d => Sys2Proof.Machine.execW400C d s
  | .w400D d => Sys2Proof.Machine.execW400D d s
  | .w400E d => Sys2Proof.Machine.execW400E d s
  | .w400F d => Sys2Proof.Machine.execW400F d s
  | .w4010 d => Sys2Proof.Machine.execW4010 d s
  | .w4011 d => Sys2Proof.Machine.execW4011 d s
  | .w4012 d => Sys2Proof.Machine.execW4012 d s
  | .w4013 d => Sys2Proof.Machine.execW4013 d s
  | .w4014 d => Sys2Proof.Machine.execW4014 d s
  | .w4015 d => Sys2Proof.Machine.execW4015 d s
  | .w4016 d => Sys2Proof.Machine.execW4016 d s
  | .w4017 d => Sys2Proof.Machine.execW4017 d s
  | .rd4015 => Sys2Proof.Machine.execRd4015 s
  | .tick n => Sys2Proof.Machine.execTick n s
  | .sampleP1 => Sys2Proof.Machine.execSampleP1 s
  | .sampleP2 => Sys2Proof.Machine.execSampleP2 s
  | .sampleTri => Sys2Proof.Machine.execSampleTri s
  | .sampleNoi => Sys2Proof.Machine.execSampleNoi s
  | .sampleDmc => Sys2Proof.Machine.execSampleDmc s

end Sys2Proof.Machine
end

