-- ==== Sys2Proof/Machine/Step.lean ====
section
/-! DEFINITION. One step of the machine: the oldest issued operation is decoded and applied (spec/00_scope.md R7, R8).
The block fetches nothing and has no program counter (spec/10_state.md R21): what stands where a processor's fetch would
be is the list of issued operations (log entries 1, 2). -/

namespace Sys2Proof.Machine

/-- One step: apply the oldest issued operation; with none issued the block stays as it is, since it never halts
(spec/70_reset_and_hazards.md R275; log entry 1). -/
def step (s : State) : Host.Outcome State Fault Refusal :=
  match s.pending with
  | [] => .next s
  | r :: rest =>
    match r.operation with
    | .ok i => exec i (s.setPending rest)
    | .error e => .refused (refusalOf e)

/-- The state in which the environment has issued the operation word `w` as the very next operation (log entries 2, 9):
of the row's number the 27 bits of an operation word are kept (R80). -/
def State.withFetchWord (s : State) (nbits w : Nat) : State :=
  s.setPending (.word (BitVec.ofNat 27 (w % 2 ^ nbits)) :: s.pending)

end Sys2Proof.Machine
end

