-- ==== Sys2Proof/Safety.lean ====
section
/-! DEFINITION. What counts as a safe state of the block: the invariant of spec/10_state.md R39, clause by clause. The
block has no error state (spec/60_exceptions.md R250, R261), so a run is safe when every state of it meets this. -/

namespace Sys2Proof.Machine

/-- R39 (a) and (d) for an envelope unit (ranges of R25). Clause (d), divider at least 1, is R190's for
`ZERO_AFTER_DECREMENT`; under `BELOW_ZERO` a divider may rest at 0. -/
abbrev Envelope.InRange (conv : DividerConvention) (e : Envelope) : Prop :=
  e.decayCounter ≤ 15 ∧ e.divider ≤ 16 ∧ (conv = .zeroAfterDecrement → 1 ≤ e.divider)

/-- R39 (a) and (d) for a sweep unit (ranges of R26). -/
abbrev Sweep.InRange (conv : DividerConvention) (w : Sweep) : Prop :=
  w.divider ≤ 8 ∧ w.targetPeriod ≤ 0xBFE ∧ (conv = .zeroAfterDecrement → 1 ≤ w.divider)

/-- R39 (e): a phase accumulator lies in [0, 1). -/
abbrev PhaseInRange (ph : Rat) : Prop := 0 ≤ ph ∧ ph < 1

/-- R39 (a), (b), (d), (e) for a pulse channel. -/
abbrev Pulse.Safe (conv : DividerConvention) (c : Pulse) : Prop :=
  c.env.InRange conv ∧ c.sweep.InRange conv ∧ c.len.counter ≤ 255 ∧ PhaseInRange c.phase ∧ c.env.loop = c.len.halt

/-- R39 (a), (b), (e) for the triangle. -/
abbrev Triangle.Safe (t : Triangle) : Prop :=
  t.len.counter ≤ 255 ∧ t.lin.counter ≤ 127 ∧ PhaseInRange t.phase ∧ t.lin.controlFlag = t.len.halt

/-- R39 (a) to (e) for the noise channel. -/
abbrev Noise.Safe (conv : DividerConvention) (n : Noise) : Prop :=
  n.env.InRange conv ∧ n.len.counter ≤ 255 ∧ PhaseInRange n.phase ∧ n.env.loop = n.len.halt ∧ n.lfsr ≠ 0

/-- R39 (a), (e), (h) for the DMC (ranges of R33). -/
abbrev Dmc.Safe (d : Dmc) : Prop :=
  d.bytesRemaining ≤ 4081 ∧ d.bitsRemaining ≤ 8 ∧ d.outputLevel ≤ 127 ∧ PhaseInRange d.phase
  ∧ 0x8000 ≤ d.sampleAddress.toNat

/-- R39 (f), (g) for the frame sequencer. -/
abbrev FrameSequencer.Safe (f : FrameSequencer) : Prop :=
  f.cycleAccumulator < frameStepCycles
  ∧ (f.mode = .fourStep → f.step ≤ 3) ∧ (f.mode = .fiveStep → f.step ≤ 4)

/-- The invariant of the block (R39), with the requirements on the open parameters it rests on. -/
abbrev State.Safe (s : State) : Prop :=
  s.cfg.WellFormed
  ∧ s.pulse1.Safe s.cfg.dividerConvention ∧ s.pulse2.Safe s.cfg.dividerConvention
  ∧ s.tri.Safe ∧ s.noise.Safe s.cfg.dividerConvention ∧ s.dmc.Safe ∧ s.frame.Safe

end Sys2Proof.Machine
end

