-- ==== Sys2Proof/Certificates/Slice0/Obligations.lean ====
section
/-! DEFINITION. The statements about the model. The helper predicates of the first part spell the spec's bit fields and
procedures in arithmetic of their own (quotients and remainders of the written byte, fractional parts, floors), so that
a wrong field or formula in the model makes a statement false. -/

namespace Sys2Proof.Machine

/-! ## Helper predicates -/

/-- Bit n of a written byte, by arithmetic. -/
def BitSet (d : Byte) (n : Nat) : Prop := d.toNat / 2 ^ n % 2 = 1

/-- $4000/$4004: what the write leaves in its pulse channel (R82), and that nothing else of the channel changes. -/
def PulseControlWritten (d : Byte) (c c' : Pulse) : Prop :=
  c'.duty.toNat = d.toNat / 64 ∧ (c'.len.halt = true ↔ BitSet d 5) ∧ (c'.env.loop = true ↔ BitSet d 5)
  ∧ (c'.env.constantVolume = true ↔ BitSet d 4) ∧ c'.env.volume.toNat = d.toNat % 16
  ∧ c' = { c with
      duty := c'.duty
      len := { c.len with halt := c'.len.halt }
      env := { c.env with loop := c'.env.loop, constantVolume := c'.env.constantVolume, volume := c'.env.volume } }

/-- $4001/$4005: what the write leaves in its pulse channel (R83), and that nothing else of the channel changes. -/
def PulseSweepWritten (d : Byte) (c c' : Pulse) : Prop :=
  (c'.sweep.enabled = true ↔ BitSet d 7) ∧ c'.sweep.period.toNat = d.toNat / 16 % 8
  ∧ (c'.sweep.negateDirection = true ↔ BitSet d 3) ∧ c'.sweep.shiftCount.toNat = d.toNat % 8
  ∧ c' = { c with sweep := { c.sweep with
      enabled := c'.sweep.enabled
      period := c'.sweep.period
      negateDirection := c'.sweep.negateDirection
      shiftCount := c'.sweep.shiftCount } }

/-- A period after its low byte is written (R100(a)). -/
def PeriodLowWritten (d : Byte) (p p' : BitVec 11) : Prop := p'.toNat = p.toNat / 256 * 256 + d.toNat

/-- A period after its high bits are written (R100(a)). -/
def PeriodHighWritten (d : Byte) (p p' : BitVec 11) : Prop := p'.toNat = d.toNat % 8 * 256 + p.toNat % 256

/-- An envelope after `EnvelopeRestart` (R115). -/
def EnvelopeRestarted (e e' : Envelope) : Prop :=
  e' = { e with decayCounter := 15, divider := e.volume.toNat + 1 }

/-- A length counter after a Reset with the index in bits 7:3 of d (R101, R116). -/
def LengthLoaded (cfg : Config) (d : Byte) (l l' : LengthCounter) : Prop :=
  cfg.lengthTable[d.toNat / 8]? = some l'.counter ∧ l'.halt = l.halt

/-- $4003/$4007: what the write and its Reset leave in the pulse channel (R85, R116). -/
def PulseHighWritten (cfg : Config) (d : Byte) (c c' : Pulse) : Prop :=
  PeriodHighWritten d c.timerPeriod c'.timerPeriod ∧ c'.lengthIndex.toNat = d.toNat / 8 ∧ c'.phase = 0
  ∧ LengthLoaded cfg d c.len c'.len ∧ EnvelopeRestarted c.env c'.env
  ∧ c'.duty = c.duty ∧ c'.enabled = c.enabled ∧ c'.sweep = c.sweep

/-- Whether a divider underflows at a tick (R190). -/
def Underflows (conv : DividerConvention) (divider : Nat) : Prop :=
  (conv = .zeroAfterDecrement ∧ divider ≤ 1) ∨ (conv = .belowZero ∧ divider = 0)

/-- An envelope after `EnvelopeTick` (R186). -/
def EnvelopeTicked (conv : DividerConvention) (e e' : Envelope) : Prop :=
  (¬ Underflows conv e.divider → e' = { e with divider := e.divider - 1 })
  ∧ (Underflows conv e.divider →
      (0 < e.decayCounter → e' = { e with divider := e.volume.toNat + 1, decayCounter := e.decayCounter - 1 })
      ∧ (e.decayCounter = 0 → e.loop = true → e' = { e with divider := e.volume.toNat + 1, decayCounter := 15 })
      ∧ (e.decayCounter = 0 → e.loop = false → e' = { e with divider := e.volume.toNat + 1 }))

/-- The linear counter after `LinearTick` (R191). -/
def LinearTicked (k k' : LinearCounter) : Prop :=
  (k.reloadFlag = true → k'.counter = k.reloadValue.toNat)
  ∧ (k.reloadFlag = false → k'.counter = k.counter - 1)
  ∧ (k.controlFlag = false → k'.reloadFlag = false)
  ∧ (k.controlFlag = true → k'.reloadFlag = k.reloadFlag)
  ∧ k'.reloadValue = k.reloadValue ∧ k'.controlFlag = k.controlFlag

/-- A length counter after `LengthTick` (R189). -/
def LengthTicked (l l' : LengthCounter) : Prop :=
  (l.halt = false → l'.counter = l.counter - 1) ∧ (l.halt = true → l'.counter = l.counter) ∧ l'.halt = l.halt

/-- A pulse channel after `SweepTick` (R188): c is the channel after its length tick. -/
def SweepTicked (conv : DividerConvention) (c c' : Pulse) : Prop :=
  (¬ Underflows conv c.sweep.divider → c' = { c with sweep := { c.sweep with divider := c.sweep.divider - 1 } })
  ∧ (Underflows conv c.sweep.divider →
      (c.sweep.enabled = false ∨ c.sweep.shiftCount.toNat = 0 ∨ c.len.counter = 0 →
        c' = { c with sweep := { c.sweep with divider := c.sweep.period.toNat + 1 } })
      ∧ (c.sweep.enabled = true → c.sweep.shiftCount.toNat ≠ 0 → c.len.counter ≠ 0 →
          c'.sweep = { c.sweep with divider := c.sweep.period.toNat + 1, targetPeriod := c'.sweep.targetPeriod }
          ∧ (c.sweep.negateDirection = true → (c'.sweep.targetPeriod : Int)
              = c.timerPeriod.toNat - (c.timerPeriod.toNat / 2 ^ c.sweep.shiftCount.toNat : Nat))
          ∧ (c.sweep.negateDirection = false → (c'.sweep.targetPeriod : Int)
              = c.timerPeriod.toNat + (c.timerPeriod.toNat / 2 ^ c.sweep.shiftCount.toNat : Nat))
          ∧ (c'.sweep.targetPeriod < 8 ∨ 0x7FF < c'.sweep.targetPeriod →
              c' = { c with sweep := c'.sweep, len := { c.len with counter := 0 } })
          ∧ (8 ≤ c'.sweep.targetPeriod → c'.sweep.targetPeriod ≤ 0x7FF →
              c'.timerPeriod.toNat = c'.sweep.targetPeriod
              ∧ c' = { c with sweep := c'.sweep, timerPeriod := c'.timerPeriod })))

/-- The volume an envelope unit puts out (R187). -/
def VolumeIs (e : Envelope) (v : Nat) : Prop :=
  (e.constantVolume = true → v = e.volume.toNat) ∧ (e.constantVolume = false → v = e.decayCounter)

/-- The positive fraction of the pulse cycle for each duty index (R104). -/
def DutyIs (duty : BitVec 2) (q : Rat) : Prop :=
  (duty.toNat = 0 ∧ q = 1 / 8) ∨ (duty.toNat = 1 ∧ q = 1 / 4) ∨ (duty.toNat = 2 ∧ q = 1 / 2)
  ∨ (duty.toNat = 3 ∧ q = 3 / 4)

/-- What `SAMPLE.P1`/`SAMPLE.P2` leave of the channel and return (R214). -/
def PulseSampled (cfg : Config) (c c' : Pulse) (y : Rat) : Prop :=
  c' = { c with phase := Int.fract (c.phase + 3579545 / 2 / (16 * (c.timerPeriod.toNat + 1)) / cfg.fs) }
  ∧ (c.enabled = false ∨ c.len.counter = 0 → y = 0)
  ∧ (c.enabled = true → c.len.counter ≠ 0 → ∀ (v : Nat) (q : Rat), VolumeIs c.env v → DutyIs c.duty q →
      (c'.phase < q → y = (v : Rat) / 15) ∧ (q ≤ c'.phase → y = -(v : Rat) / 15))

/-- The two pulse channels exchanged. -/
def State.swapPulses (s : State) : State := { s with pulse1 := s.pulse2, pulse2 := s.pulse1 }

/-- The table of R38, row by row, as literals of its own (source: 4-step mode, inhibit 0, shift register 1, the rest
decision D19, log entry 8). -/
def PowerOnTable (s : State) : Prop :=
  (∀ c : Pulse, c = s.pulse1 ∨ c = s.pulse2 →
    c.duty = 0 ∧ c.timerPeriod = 0 ∧ c.lengthIndex = 0 ∧ c.enabled = false ∧ c.phase = 0
    ∧ c.env.volume = 0 ∧ c.env.constantVolume = false ∧ c.env.loop = false ∧ c.env.decayCounter = 0 ∧ c.env.divider = 1
    ∧ c.sweep.enabled = false ∧ c.sweep.period = 0 ∧ c.sweep.negateDirection = false ∧ c.sweep.shiftCount = 0
    ∧ c.sweep.divider = 1 ∧ c.sweep.targetPeriod = 0 ∧ c.len.counter = 0 ∧ c.len.halt = false)
  ∧ (s.tri.timerPeriod = 0 ∧ s.tri.lengthIndex = 0 ∧ s.tri.enabled = false ∧ s.tri.phase = 0
    ∧ s.tri.len.counter = 0 ∧ s.tri.len.halt = false ∧ s.tri.lin.counter = 0 ∧ s.tri.lin.reloadValue = 0
    ∧ s.tri.lin.reloadFlag = false ∧ s.tri.lin.controlFlag = false)
  ∧ (s.noise.mode = .long ∧ s.noise.periodIndex = 0 ∧ s.noise.lengthIndex = 0 ∧ s.noise.enabled = false
    ∧ s.noise.phase = 0 ∧ s.noise.lfsr = 1 ∧ s.noise.env.volume = 0 ∧ s.noise.env.constantVolume = false
    ∧ s.noise.env.loop = false ∧ s.noise.env.decayCounter = 0 ∧ s.noise.env.divider = 1
    ∧ s.noise.len.counter = 0 ∧ s.noise.len.halt = false)
  ∧ (s.dmc.irqEnable = false ∧ s.dmc.loopFlag = false ∧ s.dmc.rateIndex = 0 ∧ s.dmc.startReg = 0 ∧ s.dmc.lengthReg = 0
    ∧ s.dmc.sampleAddress = 0xC000 ∧ s.dmc.bytesRemaining = 0 ∧ s.dmc.bitBuffer = 0 ∧ s.dmc.bitsRemaining = 0
    ∧ s.dmc.outputLevel = 0 ∧ s.dmc.enabled = false ∧ s.dmc.phase = 0 ∧ s.dmc.irqFlag = false)
  ∧ (s.frame.cycleAccumulator = 0 ∧ s.frame.step = 0 ∧ s.frame.mode = .fourStep ∧ s.frame.irqInhibit = false
    ∧ s.frame.irqFlag = false)

/-- The fold of the meanings over a list of operations (R8). -/
def applyAll : List Instr → State → Host.Outcome State Fault Refusal
  | [], s => .next s
  | i :: is, s =>
    match exec i s with
    | .next t => applyAll is t
    | o => o

end Sys2Proof.Machine

open Sys2Proof Sys2Proof.Machine

/-! ## The step, the words -/

/-- A step applies the oldest issued operation: an operation word through the decoder, the abstract TICK(n) as it is;
with none issued it leaves the state; what withFetchWord issues is applied next. The list of issued operations is the
model's form (log entries 1, 2, 11). -/
def Obligations.StepAppliesOldestOperation : Prop :=
  (∀ (s : State) (w : OpWord) (rest : List Request) (i : Instr),
    s.pending = .word w :: rest → decode w = .ok i → step s = exec i (s.setPending rest))
  ∧ (∀ (s : State) (n : Nat) (rest : List Request),
    s.pending = .tick n :: rest → step s = exec (.tick n) (s.setPending rest))
  ∧ (∀ s : State, s.pending = [] → step s = .next s)
  ∧ (∀ (s : State) (w : Nat) (i : Instr),
    decodeTableWord 32 w = some i → w < 2 ^ 32 → step (s.withFetchWord 32 w) = exec i s)

/-- Words that the spec writes out (V31, P1 to P5) decode to the operations it says they are. -/
def Obligations.SpecWordsDecode : Prop :=
  decode 0x14000BF#27 = .ok (.w4000 0xBF) ∧ decode 0x140030C#27 = .ok (.w4003 0x0C)
  ∧ decode 0x1400803#27 = .ok (.w4008 0x03) ∧ decode 0x140108F#27 = .ok (.w4010 0x8F)
  ∧ decode 0x1401501#27 = .ok (.w4015 0x01) ∧ decode 0x0401500#27 = .ok .rd4015
  ∧ decode 0x14017C0#27 = .ok (.w4017 0xC0) ∧ decode 0x2001D21#27 = .ok (.tick 7457)
  ∧ decode 0x3000000#27 = .ok .sampleP1 ∧ decode 0x3000004#27 = .ok .sampleDmc

/-- Decode after encode, for every well-formed operation. -/
def Obligations.DecodeOfEncodeIsTheOperation : Prop :=
  ∀ i : Instr, i.wellFormed = true → decode (encode i) = .ok i

/-- Every word that decodes is the word of a well-formed operation; only a status read has bits to spare (R80 ignores
its d). -/
def Obligations.EncodeOfDecodeIsTheWord : Prop :=
  ∀ (w : OpWord) (i : Instr), decode w = .ok i →
    i.wellFormed = true ∧ (i ≠ .rd4015 → encode i = w) ∧ (i = .rd4015 → w.toNat / 256 = 0x04015)

/-- The rows of the operation table and the decoder agree: a word that matches a row decodes to an operation of that
row, and a word that decodes matches its operation's row. -/
def Obligations.TableRowsSelectOperations : Prop :=
  (∀ (w : OpWord) (j : Instr), w &&& (tableRow j).2 = (tableRow j).1 →
    ∃ i, decode w = .ok i ∧ tableRow i = tableRow j)
  ∧ (∀ (w : OpWord) (i : Instr), decode w = .ok i → w &&& (tableRow i).2 = (tableRow i).1)

/-- What the model declines to run, it refuses by name: a read of another register of the window; kinds 4 to 7 and
SAMPLE words of no channel; addresses outside the window. R164 and R99(c) give the refusals of reads, of kinds 4 to 7 and
of channels from 5 up; that a SAMPLE word with another bit set above its channel field is refused too is log entry 9
(DEDUCED), and the refusal outside the window is the model's choice, log entry 10. -/
def Obligations.RefusedOperationsAreNamed : Prop :=
  ∀ (s : State) (w : OpWord) (rest : List Request), s.pending = .word w :: rest →
    (w.toNat / 2 ^ 24 = 0 → 0x4000 ≤ w.toNat / 256 % 2 ^ 16 → w.toNat / 256 % 2 ^ 16 ≤ 0x4017 →
      w.toNat / 256 % 2 ^ 16 ≠ 0x4015 → step s = .refused (.readNotStatus (addrOf w)))
    ∧ (4 ≤ w.toNat / 2 ^ 24 → step s = .refused .noSuchOperation)
    ∧ (w.toNat / 2 ^ 24 = 3 → 5 ≤ w.toNat % 2 ^ 24 → step s = .refused .noSuchOperation)
    ∧ (w.toNat / 2 ^ 24 ≤ 1 → (w.toNat / 256 % 2 ^ 16 < 0x4000 ∨ 0x4017 < w.toNat / 256 % 2 ^ 16) →
      step s = .refused (.outsideWindow (addrOf w)))

/-- No operation fails, in any state: every one of the 31 answers a next state, leaves the open parameters and the
issued operations alone, and only adds to what has been handed out. -/
def Obligations.EveryOperationCompletes : Prop :=
  ∀ (i : Instr) (s : State), ∃ t, exec i s = .next t ∧ t.cfg = s.cfg ∧ t.pending = s.pending
    ∧ ∃ es, t.trace = s.trace ++ es

/-- A run of issued words is the fold of the operations' effects, in issue order: none lost, merged or reordered. -/
def Obligations.RunIsTheFoldOfOperations : Prop :=
  ∀ (is : List Instr) (s : State), (∀ i ∈ is, i.wellFormed = true) →
    ∃ t, applyAll is (s.setPending []) = .next t
      ∧ Host.Core.run core is.length (s.setPending (is.map fun i => .word (encode i))) = .next t

/-! ## Register writes -/

/-- W4000 and W4004, with their frame: dividers, decay counter, length counter and phase unchanged (decision D27). -/
def Obligations.PulseControlWrite : Prop :=
  ∀ (d : Byte) (s : State),
    (∃ t, exec (.w4000 d) s = .next t ∧ PulseControlWritten d s.pulse1 t.pulse1 ∧ t = s.setPulse1 t.pulse1)
    ∧ (∃ t, exec (.w4004 d) s = .next t ∧ PulseControlWritten d s.pulse2 t.pulse2 ∧ t = s.setPulse2 t.pulse2)

/-- W4001 and W4005, with their frame: the sweep divider is not reloaded and no target computed (decision D27). -/
def Obligations.PulseSweepWrite : Prop :=
  ∀ (d : Byte) (s : State),
    (∃ t, exec (.w4001 d) s = .next t ∧ PulseSweepWritten d s.pulse1 t.pulse1 ∧ t = s.setPulse1 t.pulse1)
    ∧ (∃ t, exec (.w4005 d) s = .next t ∧ PulseSweepWritten d s.pulse2 t.pulse2 ∧ t = s.setPulse2 t.pulse2)

/-- W4002 and W4006: the low byte of the one period register (decision D5), nothing else. -/
def Obligations.PulsePeriodLowWrite : Prop :=
  ∀ (d : Byte) (s : State),
    (∃ t, exec (.w4002 d) s = .next t ∧ PeriodLowWritten d s.pulse1.timerPeriod t.pulse1.timerPeriod
      ∧ t = s.setPulse1 { s.pulse1 with timerPeriod := t.pulse1.timerPeriod })
    ∧ (∃ t, exec (.w4006 d) s = .next t ∧ PeriodLowWritten d s.pulse2.timerPeriod t.pulse2.timerPeriod
      ∧ t = s.setPulse2 { s.pulse2 with timerPeriod := t.pulse2.timerPeriod })

/-- W4003 and W4007: period high bits, length index, then the Reset, whether or not the channel is enabled (decisions
D10, D13). -/
def Obligations.PulsePeriodHighWrite : Prop :=
  ∀ (d : Byte) (s : State),
    (∃ t, exec (.w4003 d) s = .next t ∧ PulseHighWritten s.cfg d s.pulse1 t.pulse1 ∧ t = s.setPulse1 t.pulse1)
    ∧ (∃ t, exec (.w4007 d) s = .next t ∧ PulseHighWritten s.cfg d s.pulse2 t.pulse2 ∧ t = s.setPulse2 t.pulse2)

/-- W4008: the control flag and the length halt, one bit, and the reload value; linear counter and reload flag stay. -/
def Obligations.TriangleControlWrite : Prop :=
  ∀ (d : Byte) (s : State), ∃ t, exec (.w4008 d) s = .next t
    ∧ (t.tri.lin.controlFlag = true ↔ BitSet d 7) ∧ (t.tri.len.halt = true ↔ BitSet d 7)
    ∧ t.tri.lin.reloadValue.toNat = d.toNat % 128
    ∧ t = s.setTri { s.tri with
        lin := { s.tri.lin with controlFlag := t.tri.lin.controlFlag, reloadValue := t.tri.lin.reloadValue }
        len := { s.tri.len with halt := t.tri.len.halt } }

/-- W400A: the low byte of the triangle's period; the phase is not restarted. -/
def Obligations.TrianglePeriodLowWrite : Prop :=
  ∀ (d : Byte) (s : State), ∃ t, exec (.w400A d) s = .next t
    ∧ PeriodLowWritten d s.tri.timerPeriod t.tri.timerPeriod
    ∧ t = s.setTri { s.tri with timerPeriod := t.tri.timerPeriod }

/-- W400B: period high bits, length index, then the triangle's Reset, which also loads the linear counter and sets the
reload flag (decision D12). -/
def Obligations.TrianglePeriodHighWrite : Prop :=
  ∀ (d : Byte) (s : State), ∃ t, exec (.w400B d) s = .next t
    ∧ PeriodHighWritten d s.tri.timerPeriod t.tri.timerPeriod ∧ t.tri.lengthIndex.toNat = d.toNat / 8
    ∧ LengthLoaded s.cfg d s.tri.len t.tri.len
    ∧ t = s.setTri { s.tri with
        timerPeriod := t.tri.timerPeriod
        lengthIndex := t.tri.lengthIndex
        phase := 0
        len := t.tri.len
        lin := { s.tri.lin with counter := s.tri.lin.reloadValue.toNat, reloadFlag := true } }

/-- W400C: halt and loop, one bit, constant volume, volume; bits 7:6 ignored (the positions are the spec's G1); divider and
decay counter unchanged (decision D27). -/
def Obligations.NoiseControlWrite : Prop :=
  ∀ (d : Byte) (s : State), ∃ t, exec (.w400C d) s = .next t
    ∧ (t.noise.len.halt = true ↔ BitSet d 5) ∧ (t.noise.env.loop = true ↔ BitSet d 5)
    ∧ (t.noise.env.constantVolume = true ↔ BitSet d 4) ∧ t.noise.env.volume.toNat = d.toNat % 16
    ∧ t = s.setNoise { s.noise with
        len := { s.noise.len with halt := t.noise.len.halt }
        env := { s.noise.env with
          loop := t.noise.env.loop
          constantVolume := t.noise.env.constantVolume
          volume := t.noise.env.volume } }

/-- W400E: mode and period index; bits 6:4 ignored (the positions are the spec's G1); shift register and phase
untouched. -/
def Obligations.NoisePeriodWrite : Prop :=
  ∀ (d : Byte) (s : State), ∃ t, exec (.w400E d) s = .next t
    ∧ (t.noise.mode = .short ↔ BitSet d 7) ∧ t.noise.periodIndex.toNat = d.toNat % 16
    ∧ t = s.setNoise { s.noise with mode := t.noise.mode, periodIndex := t.noise.periodIndex }

/-- W400F: the length index, then the noise Reset; the shift register is not reloaded (decision D13). -/
def Obligations.NoiseLengthWrite : Prop :=
  ∀ (d : Byte) (s : State), ∃ t, exec (.w400F d) s = .next t
    ∧ t.noise.lengthIndex.toNat = d.toNat / 8 ∧ LengthLoaded s.cfg d s.noise.len t.noise.len
    ∧ EnvelopeRestarted s.noise.env t.noise.env
    ∧ t = s.setNoise { s.noise with
        lengthIndex := t.noise.lengthIndex, phase := 0, len := t.noise.len, env := t.noise.env }

/-- W4010: IRQ enable, loop, rate index; bit 7 = 0 clears the DMC IRQ flag (decision D11); bits 5:4 ignored. -/
def Obligations.DmcControlWrite : Prop :=
  ∀ (d : Byte) (s : State), ∃ t, exec (.w4010 d) s = .next t
    ∧ (t.dmc.irqEnable = true ↔ BitSet d 7) ∧ (t.dmc.loopFlag = true ↔ BitSet d 6)
    ∧ t.dmc.rateIndex.toNat = d.toNat % 16
    ∧ (BitSet d 7 → t.dmc.irqFlag = s.dmc.irqFlag) ∧ (¬ BitSet d 7 → t.dmc.irqFlag = false)
    ∧ t = s.setDmc { s.dmc with
        irqEnable := t.dmc.irqEnable
        loopFlag := t.dmc.loopFlag
        rateIndex := t.dmc.rateIndex
        irqFlag := t.dmc.irqFlag }

/-- W4011: the output level, bit 7 ignored (the positions are the spec's G1), nothing else. -/
def Obligations.DmcLevelWrite : Prop :=
  ∀ (d : Byte) (s : State), exec (.w4011 d) s = .next (s.setDmc { s.dmc with outputLevel := d.toNat % 128 })

/-- W4012: the start register; the sample address does not move. The byte stored denotes 0xC000 + 64 * A at the next
restart, on each of its three ways: a W4013 (decision D13), an enabling W4015 with no sample in progress (decision D10),
the end of a looping one. -/
def Obligations.DmcStartWrite : Prop :=
  ∀ (d : Byte) (s : State), ∃ t, exec (.w4012 d) s = .next t ∧ t = s.setDmc { s.dmc with startReg := d }
    ∧ (∀ l : Byte, ∃ u, exec (.w4013 l) t = .next u ∧ u.dmc.sampleAddress.toNat = 0xC000 + 64 * d.toNat)
    ∧ (∀ e : Byte, BitSet e 4 → s.dmc.bytesRemaining = 0 →
        ∃ u, exec (.w4015 e) t = .next u ∧ u.dmc.sampleAddress.toNat = 0xC000 + 64 * d.toNat)
    ∧ (s.dmc.bytesRemaining = 1 → s.dmc.loopFlag = true →
        (dmcFetch t).dmc.sampleAddress.toNat = 0xC000 + 64 * d.toNat)

/-- W4013: the length register, then the DMC's Reset: phase 0, address and byte count from the registers, in the middle
of a sample or not, enabled or not (decision D13). -/
def Obligations.DmcLengthWrite : Prop :=
  ∀ (d : Byte) (s : State), ∃ t, exec (.w4013 d) s = .next t
    ∧ t.dmc.sampleAddress.toNat = 0xC000 + 64 * s.dmc.startReg.toNat
    ∧ t = s.setDmc { s.dmc with
        lengthReg := d
        phase := 0
        sampleAddress := t.dmc.sampleAddress
        bytesRemaining := 16 * d.toNat + 1 }

/-- A DMC restart: address and byte count from the registers, within $C000..$FFC0 and 1..4081, nothing else. -/
def Obligations.DmcRestartLoadsAddressAndCount : Prop :=
  ∀ c : Dmc, (dmcRestart c).sampleAddress.toNat = 0xC000 + 64 * c.startReg.toNat
    ∧ (dmcRestart c).bytesRemaining = 16 * c.lengthReg.toNat + 1
    ∧ 0xC000 ≤ (dmcRestart c).sampleAddress.toNat ∧ (dmcRestart c).sampleAddress.toNat ≤ 0xFFC0
    ∧ 1 ≤ (dmcRestart c).bytesRemaining ∧ (dmcRestart c).bytesRemaining ≤ 4081
    ∧ dmcRestart c = { c with
        sampleAddress := (dmcRestart c).sampleAddress, bytesRemaining := (dmcRestart c).bytesRemaining }

/-- W4009, W400D, W4014 and W4016 change no state (decision D3). -/
def Obligations.UnlistedWritesChangeNothing : Prop :=
  ∀ (d : Byte) (s : State), exec (.w4009 d) s = .next s ∧ exec (.w400D d) s = .next s
    ∧ exec (.w4014 d) s = .next s ∧ exec (.w4016 d) s = .next s

/-- W4015: the five enables; a cleared bit zeroes its counter, a set DMC bit restarts an ended sample, the DMC IRQ flag
is cleared (decisions D10, D11); the frame sequencer is untouched. -/
def Obligations.EnableWrite : Prop :=
  ∀ (d : Byte) (s : State), ∃ t, exec (.w4015 d) s = .next t
    ∧ (t.pulse1.enabled = true ↔ BitSet d 0) ∧ (t.pulse2.enabled = true ↔ BitSet d 1)
    ∧ (t.tri.enabled = true ↔ BitSet d 2) ∧ (t.noise.enabled = true ↔ BitSet d 3) ∧ (t.dmc.enabled = true ↔ BitSet d 4)
    ∧ (BitSet d 0 → t.pulse1.len = s.pulse1.len) ∧ (¬ BitSet d 0 → t.pulse1.len = { s.pulse1.len with counter := 0 })
    ∧ (BitSet d 1 → t.pulse2.len = s.pulse2.len) ∧ (¬ BitSet d 1 → t.pulse2.len = { s.pulse2.len with counter := 0 })
    ∧ (BitSet d 2 → t.tri.len = s.tri.len) ∧ (¬ BitSet d 2 → t.tri.len = { s.tri.len with counter := 0 })
    ∧ (BitSet d 3 → t.noise.len = s.noise.len) ∧ (¬ BitSet d 3 → t.noise.len = { s.noise.len with counter := 0 })
    ∧ (¬ BitSet d 4 → t.dmc.bytesRemaining = 0 ∧ t.dmc.sampleAddress = s.dmc.sampleAddress)
    ∧ (BitSet d 4 → s.dmc.bytesRemaining ≠ 0 →
        t.dmc.bytesRemaining = s.dmc.bytesRemaining ∧ t.dmc.sampleAddress = s.dmc.sampleAddress)
    ∧ (BitSet d 4 → s.dmc.bytesRemaining = 0 →
        t.dmc.bytesRemaining = 16 * s.dmc.lengthReg.toNat + 1
        ∧ t.dmc.sampleAddress.toNat = 0xC000 + 64 * s.dmc.startReg.toNat)
    ∧ t = { s with
        pulse1 := { s.pulse1 with enabled := t.pulse1.enabled, len := t.pulse1.len }
        pulse2 := { s.pulse2 with enabled := t.pulse2.enabled, len := t.pulse2.len }
        tri := { s.tri with enabled := t.tri.enabled, len := t.tri.len }
        noise := { s.noise with enabled := t.noise.enabled, len := t.noise.len }
        dmc := { s.dmc with
          enabled := t.dmc.enabled
          bytesRemaining := t.dmc.bytesRemaining
          sampleAddress := t.dmc.sampleAddress
          irqFlag := false } }

/-- RD4015: the eight bits of the byte handed out, and the frame IRQ flag cleared after it was sampled; nothing else
(bit 5 is decision D22, the absence of lag D1; that results stand in the trace is log entry 3). -/
def Obligations.StatusRead : Prop :=
  ∀ s : State, ∃ (t : State) (r : Byte), exec .rd4015 s = .next t ∧ t.trace = s.trace ++ [.status r]
    ∧ (BitSet r 7 ↔ s.dmc.irqFlag = true) ∧ (BitSet r 6 ↔ s.frame.irqFlag = true) ∧ ¬ BitSet r 5
    ∧ (BitSet r 4 ↔ s.dmc.bytesRemaining ≠ 0) ∧ (BitSet r 3 ↔ s.noise.len.counter ≠ 0)
    ∧ (BitSet r 2 ↔ s.tri.len.counter ≠ 0) ∧ (BitSet r 1 ↔ s.pulse2.len.counter ≠ 0)
    ∧ (BitSet r 0 ↔ s.pulse1.len.counter ≠ 0)
    ∧ t = (s.setTrace t.trace).setFrame { s.frame with irqFlag := false }

/-- W4017: mode, inhibit, step 0, accumulator 0; bit 6 = 1 clears the frame IRQ flag (decision D11); no tick is fired
(decision D21): all units are as before. -/
def Obligations.FrameControlWrite : Prop :=
  ∀ (d : Byte) (s : State), ∃ t, exec (.w4017 d) s = .next t
    ∧ (t.frame.mode = .fiveStep ↔ BitSet d 7) ∧ (t.frame.irqInhibit = true ↔ BitSet d 6)
    ∧ (BitSet d 6 → t.frame.irqFlag = false) ∧ (¬ BitSet d 6 → t.frame.irqFlag = s.frame.irqFlag)
    ∧ t.frame.step = 0 ∧ t.frame.cycleAccumulator = 0 ∧ t = s.setFrame t.frame

/-- Every register write, made twice in a row, leaves the state of one (back to back, the ones with a Reset too). -/
def Obligations.WritesAreIdempotentBackToBack : Prop :=
  ∀ (i : Instr) (s : State), kindOf (encode i) = 1#3 → ∃ t, exec i s = .next t ∧ exec i t = .next t

/-! ## The frame sequencer -/

/-- One interval from an empty accumulator fires one step: the rows of the two sequences, with the totality arms for
step counts that no run reaches. -/
def Obligations.OneIntervalFiresTheNextStep : Prop :=
  ∀ s : State, s.frame.cycleAccumulator = 0 →
    (s.frame.mode = .fourStep →
      (s.frame.step = 0 → exec (.tick 7457) s = .next ((quarter s).setFrame { s.frame with step := 1 }))
      ∧ (s.frame.step = 1 → exec (.tick 7457) s = .next ((half (quarter s)).setFrame { s.frame with step := 2 }))
      ∧ (s.frame.step = 2 → exec (.tick 7457) s = .next ((quarter s).setFrame { s.frame with step := 3 }))
      ∧ (s.frame.step = 3 → exec (.tick 7457) s = .next ((half (quarter s)).setFrame
          { s.frame with step := 0, irqFlag := s.frame.irqFlag || !s.frame.irqInhibit }))
      ∧ (4 ≤ s.frame.step → exec (.tick 7457) s = .next ((quarter s).setFrame
          { s.frame with step := 0, irqFlag := s.frame.irqFlag || !s.frame.irqInhibit })))
    ∧ (s.frame.mode = .fiveStep →
      (s.frame.step = 0 → exec (.tick 7457) s = .next ((half (quarter s)).setFrame { s.frame with step := 1 }))
      ∧ (s.frame.step = 1 → exec (.tick 7457) s = .next ((quarter s).setFrame { s.frame with step := 2 }))
      ∧ (s.frame.step = 2 → exec (.tick 7457) s = .next ((half (quarter s)).setFrame { s.frame with step := 3 }))
      ∧ (s.frame.step = 3 → exec (.tick 7457) s = .next ((quarter s).setFrame { s.frame with step := 4 }))
      ∧ (4 ≤ s.frame.step → exec (.tick 7457) s = .next (s.setFrame { s.frame with step := 0 })))

/-- A quarter-frame tick (step 1 of the 4-step sequence does nothing else): the three envelopes and the linear counter,
each by its tick rule under either divider convention (decisions D6, D12), and nothing else. -/
def Obligations.QuarterFrameTick : Prop :=
  ∀ s : State, s.frame.cycleAccumulator = 0 → s.frame.mode = .fourStep → s.frame.step = 0 →
    ∃ t, exec (.tick 7457) s = .next t
      ∧ EnvelopeTicked s.cfg.dividerConvention s.pulse1.env t.pulse1.env
      ∧ EnvelopeTicked s.cfg.dividerConvention s.pulse2.env t.pulse2.env
      ∧ EnvelopeTicked s.cfg.dividerConvention s.noise.env t.noise.env
      ∧ LinearTicked s.tri.lin t.tri.lin
      ∧ t = { s with
          pulse1 := { s.pulse1 with env := t.pulse1.env }
          pulse2 := { s.pulse2 with env := t.pulse2.env }
          noise := { s.noise with env := t.noise.env }
          tri := { s.tri with lin := t.tri.lin }
          frame := { s.frame with step := 1 } }

/-- A half-frame tick, seen at step 2 of the 4-step sequence beside the quarter-frame tick: the four length counters,
then both sweeps, which see the counters already ticked (decisions D6, D8, D24). -/
def Obligations.HalfFrameTick : Prop :=
  ∀ s : State, s.frame.cycleAccumulator = 0 → s.frame.mode = .fourStep → s.frame.step = 1 →
    ∃ (t : State) (l1 l2 : LengthCounter), exec (.tick 7457) s = .next t
      ∧ LengthTicked s.pulse1.len l1
      ∧ SweepTicked s.cfg.dividerConvention { s.pulse1 with env := t.pulse1.env, len := l1 } t.pulse1
      ∧ LengthTicked s.pulse2.len l2
      ∧ SweepTicked s.cfg.dividerConvention { s.pulse2 with env := t.pulse2.env, len := l2 } t.pulse2
      ∧ LengthTicked s.tri.len t.tri.len ∧ LengthTicked s.noise.len t.noise.len
      ∧ t = { s with
          pulse1 := t.pulse1
          pulse2 := t.pulse2
          noise := { s.noise with env := t.noise.env, len := t.noise.len }
          tri := { s.tri with lin := t.tri.lin, len := t.tri.len }
          frame := { s.frame with step := 2 } }

/-- TICK(n) reduces the accumulator by whole intervals and advances the step counter by their number, round the four or
five steps of its mode (decision D7: the excess is kept). -/
def Obligations.TickAdvancesTheSequencer : Prop :=
  ∀ (n : Nat) (s : State), ∃ t, exec (.tick n) s = .next t
    ∧ t.frame.cycleAccumulator = (s.frame.cycleAccumulator + n) % 7457
    ∧ (s.frame.mode = .fourStep → s.frame.step ≤ 3 →
        t.frame.step = (s.frame.step + (s.frame.cycleAccumulator + n) / 7457) % 4)
    ∧ (s.frame.mode = .fiveStep → s.frame.step ≤ 4 →
        t.frame.step = (s.frame.step + (s.frame.cycleAccumulator + n) / 7457) % 5)
    ∧ t.frame.mode = s.frame.mode ∧ t.frame.irqInhibit = s.frame.irqInhibit

/-- The frame IRQ flag. After TICK(n) it is set exactly when it was set already or step 4 of the 4-step sequence fires
and the inhibit is 0; in 5-step mode, or inhibited, it is as before (decision D7: whole intervals of 7457 cycles, the
excess kept). Over all operations it is a latch: only TICK sets it, only the status read and a $4017 write with bit 6 set
(decision D11) clear it. -/
def Obligations.FrameIrqIsSetAtStepFour : Prop :=
  (∀ (n : Nat) (s : State), ∃ t, exec (.tick n) s = .next t
    ∧ (s.frame.mode = .fourStep → s.frame.step ≤ 3 → (t.frame.irqFlag = true ↔ s.frame.irqFlag = true
        ∨ (s.frame.irqInhibit = false ∧ 4 ≤ s.frame.step + (s.frame.cycleAccumulator + n) / 7457)))
    ∧ (s.frame.mode = .fiveStep ∨ s.frame.irqInhibit = true → t.frame.irqFlag = s.frame.irqFlag))
  ∧ ∀ (i : Instr) (s t : State), exec i s = .next t →
    (s.frame.irqFlag = true → t.frame.irqFlag = false → i = .rd4015 ∨ ∃ d, i = .w4017 d ∧ BitSet d 6)
    ∧ (s.frame.irqFlag = false → t.frame.irqFlag = true →
        (∃ n, i = .tick n) ∧ s.frame.mode = .fourStep ∧ s.frame.irqInhibit = false)

/-- TICK(a) then TICK(b) is TICK(a + b), and TICK(0) changes nothing once the accumulator is below 7457 (decisions D7,
D9). -/
def Obligations.TickIsAdditive : Prop :=
  (∀ (a b : Nat) (s : State), ∃ t, exec (.tick a) s = .next t ∧ exec (.tick b) t = exec (.tick (a + b)) s)
  ∧ (∀ s : State, s.frame.cycleAccumulator < 7457 → exec (.tick 0) s = .next s)

/-- What TICK leaves alone: phases, DMC, shift register, enables and every register latch but the period the sweep
writes; it hands nothing out. -/
def Obligations.TickLeavesTheSampleSideAlone : Prop :=
  ∀ (n : Nat) (s : State), ∃ t, exec (.tick n) s = .next t
    ∧ t = { s with
        pulse1 := { s.pulse1 with
          timerPeriod := t.pulse1.timerPeriod
          len := { s.pulse1.len with counter := t.pulse1.len.counter }
          env := { s.pulse1.env with decayCounter := t.pulse1.env.decayCounter, divider := t.pulse1.env.divider }
          sweep := { s.pulse1.sweep with
            divider := t.pulse1.sweep.divider, targetPeriod := t.pulse1.sweep.targetPeriod } }
        pulse2 := { s.pulse2 with
          timerPeriod := t.pulse2.timerPeriod
          len := { s.pulse2.len with counter := t.pulse2.len.counter }
          env := { s.pulse2.env with decayCounter := t.pulse2.env.decayCounter, divider := t.pulse2.env.divider }
          sweep := { s.pulse2.sweep with
            divider := t.pulse2.sweep.divider, targetPeriod := t.pulse2.sweep.targetPeriod } }
        tri := { s.tri with
          len := { s.tri.len with counter := t.tri.len.counter }
          lin := { s.tri.lin with counter := t.tri.lin.counter, reloadFlag := t.tri.lin.reloadFlag } }
        noise := { s.noise with
          len := { s.noise.len with counter := t.noise.len.counter }
          env := { s.noise.env with decayCounter := t.noise.env.decayCounter, divider := t.noise.env.divider } }
        frame := { s.frame with
          cycleAccumulator := t.frame.cycleAccumulator, step := t.frame.step, irqFlag := t.frame.irqFlag } }

/-- The envelope's period: from a reloaded divider, `volume + 1` ticks under `ZERO_AFTER_DECREMENT` and `volume + 2`
under `BELOW_ZERO` lower the decay counter by one and reload the divider (decision D6). -/
def Obligations.EnvelopePeriod : Prop :=
  ∀ e : Envelope, e.divider = e.volume.toNat + 1 → 0 < e.decayCounter →
    (envelopeTick .zeroAfterDecrement)^[e.volume.toNat + 1] e = { e with decayCounter := e.decayCounter - 1 }
    ∧ (envelopeTick .belowZero)^[e.volume.toNat + 2] e = { e with decayCounter := e.decayCounter - 1 }

/-! ## The synthesizers -/

/-- PhaseAdvance over exact rationals (decision D14): k whole cycles plus the new phase make the old phase plus f / FS,
and the new phase lies in [0, 1). -/
def Obligations.PhaseAdvanceCountsWraps : Prop :=
  ∀ (cfg : Config) (ph f : Rat), 0 < cfg.fs → 0 ≤ ph → 0 ≤ f →
    (phaseAdvance cfg ph f).1 + (phaseAdvance cfg ph f).2 = ph + f / cfg.fs
    ∧ 0 ≤ (phaseAdvance cfg ph f).1 ∧ (phaseAdvance cfg ph f).1 < 1

/-- SAMPLE.P1 and SAMPLE.P2: the phase, the value handed out, and nothing else (polarity and instant are decision D17,
the frequency's generalisation D15). -/
def Obligations.PulseSample : Prop :=
  ∀ s : State,
    (∃ (t : State) (y : Rat), exec .sampleP1 s = .next t ∧ PulseSampled s.cfg s.pulse1 t.pulse1 y
      ∧ t = (s.setPulse1 t.pulse1).setTrace (s.trace ++ [.sample .p1 y]))
    ∧ (∃ (t : State) (y : Rat), exec .sampleP2 s = .next t ∧ PulseSampled s.cfg s.pulse2 t.pulse2 y
      ∧ t = (s.setPulse2 t.pulse2).setTrace (s.trace ++ [.sample .p2 y]))

/-- SAMPLE.TRI: the phase, the ramp when all three gates are open and 0 otherwise, nothing else (decisions D15, D17,
D25). -/
def Obligations.TriangleSample : Prop :=
  ∀ s : State, ∃ (t : State) (y : Rat), exec .sampleTri s = .next t
    ∧ t = (s.setTri { s.tri with
        phase := Int.fract (s.tri.phase + 3579545 / 2 / (32 * (s.tri.timerPeriod.toNat + 1)) / s.cfg.fs)
        }).setTrace (s.trace ++ [.sample .tri y])
    ∧ (s.tri.enabled = false ∨ s.tri.len.counter = 0 ∨ s.tri.lin.counter = 0 → y = 0)
    ∧ (s.tri.enabled = true → s.tri.len.counter ≠ 0 → s.tri.lin.counter ≠ 0 →
        (t.tri.phase ≤ 1 / 2 → y = 4 * t.tri.phase - 1) ∧ (1 / 2 ≤ t.tri.phase → y = 3 - 4 * t.tri.phase))

/-- SAMPLE.NOI: one register step per wrap, active or not; the envelope's volume over 15 when the output bit is 0, else
0; nothing else (decisions D14, D15, D17). -/
def Obligations.NoiseSample : Prop :=
  ∀ (s : State) (period : Nat), s.cfg.noisePeriodTable[s.noise.periodIndex.toNat]? = some period →
    ∃ (t : State) (y : Rat), exec .sampleNoi s = .next t
      ∧ t = (s.setNoise { s.noise with
          phase := Int.fract (s.noise.phase + 3579545 / 2 / period / s.cfg.fs)
          lfsr := (lfsrStep s.noise.mode)^[⌊s.noise.phase + 3579545 / 2 / period / s.cfg.fs⌋.toNat] s.noise.lfsr
          }).setTrace (s.trace ++ [.sample .noi y])
      ∧ (s.noise.enabled = false ∨ s.noise.len.counter = 0 ∨ t.noise.lfsr.toNat % 2 = 1 → y = 0)
      ∧ (s.noise.enabled = true → s.noise.len.counter ≠ 0 → t.noise.lfsr.toNat % 2 = 0 →
          ∀ v : Nat, VolumeIs s.noise.env v → y = (v : Rat) / 15)

/-- One step of the shift register: bits move one place right, the new top bit is bit 0 xor bit 1 (long) or bit 6
(short), taken before the shift; a nonzero state never becomes zero. -/
def Obligations.LfsrStepShiftsAndFeedsBack : Prop :=
  ∀ (mode : NoiseMode) (r : BitVec 15),
    (lfsrStep mode r).toNat % 2 ^ 14 = r.toNat / 2
    ∧ ((lfsrStep mode r).toNat / 2 ^ 14 = 1 ↔
        r.toNat % 2 ≠ r.toNat / (match mode with | .long => 2 | .short => 2 ^ 6) % 2)
    ∧ (lfsrStep mode r = 0 ↔ r = 0)

/-- From state 1, the long-mode sequence first repeats after 32767 steps and the short-mode sequence after 93. -/
def Obligations.LfsrPeriods : Prop :=
  lfsrSteps .long 32767 1 = 1 ∧ (∀ k, 0 < k → k < 32767 → lfsrSteps .long k 1 ≠ 1)
  ∧ lfsrSteps .short 93 1 = 1 ∧ (∀ k, 0 < k → k < 93 → lfsrSteps .short k 1 ≠ 1)

/-- SAMPLE.DMC: the phase always advances; the bit clock runs once per wrap while enabled, not at all while disabled; the
value handed out is (level - 64) / 64; only the DMC, the fetch port and what is handed out change (decisions D10, D14,
D25). -/
def Obligations.DmcSample : Prop :=
  ∀ (s : State) (period : Nat), s.cfg.dmcRateTable[s.dmc.rateIndex.toNat]? = some period →
    ∃ t u : State, exec .sampleDmc s = .next t
      ∧ (s.dmc.enabled = false →
          u = s.setDmc { s.dmc with phase := Int.fract (s.dmc.phase + 3579545 / 2 / period / s.cfg.fs) })
      ∧ (s.dmc.enabled = true →
          u = dmcClock^[⌊s.dmc.phase + 3579545 / 2 / period / s.cfg.fs⌋.toNat]
            (s.setDmc { s.dmc with phase := Int.fract (s.dmc.phase + 3579545 / 2 / period / s.cfg.fs) }))
      ∧ t = u.setTrace (u.trace ++ [.sample .dmc (((u.dmc.outputLevel : Rat) - 64) / 64)])
      ∧ t = { s with dmc := t.dmc, mapper := t.mapper, trace := t.trace }

/-- One bit interval of the DMC (decision D18): consume bit 0 if there is one, moving the level by 2 within 0 and 126;
then fetch if the buffer is empty and bytes remain; with neither, nothing changes. -/
def Obligations.DmcBitInterval : Prop :=
  ∀ s : State,
    (s.dmc.bitsRemaining = 0 → s.dmc.bytesRemaining = 0 → dmcClock s = s)
    ∧ (s.dmc.bitsRemaining = 0 → 0 < s.dmc.bytesRemaining → dmcClock s = dmcFetch s)
    ∧ (0 < s.dmc.bitsRemaining → ∃ c,
        (s.dmc.bitBuffer.toNat % 2 = 1 → s.dmc.outputLevel ≤ 124 → c.outputLevel = s.dmc.outputLevel + 2)
        ∧ (s.dmc.bitBuffer.toNat % 2 = 1 → 125 ≤ s.dmc.outputLevel → c.outputLevel = 126)
        ∧ (s.dmc.bitBuffer.toNat % 2 = 0 → 2 ≤ s.dmc.outputLevel → c.outputLevel + 2 = s.dmc.outputLevel)
        ∧ (s.dmc.bitBuffer.toNat % 2 = 0 → s.dmc.outputLevel ≤ 1 → c.outputLevel = 0)
        ∧ c.bitBuffer.toNat = s.dmc.bitBuffer.toNat / 2
        ∧ c = { s.dmc with
            outputLevel := c.outputLevel, bitBuffer := c.bitBuffer, bitsRemaining := s.dmc.bitsRemaining - 1 }
        ∧ (1 < s.dmc.bitsRemaining ∨ s.dmc.bytesRemaining = 0 → dmcClock s = s.setDmc c)
        ∧ (s.dmc.bitsRemaining = 1 → 0 < s.dmc.bytesRemaining → dmcClock s = dmcFetch (s.setDmc c)))

/-- The sample-byte fetch (decision D18), whatever the environment has answered: some byte b comes, the next answer where
there is one (log entry 5: else any byte); buffer, bit count, address with its wrap to 0x8000, byte count, and at the last
byte the loop restart or the IRQ request; the address goes to the Mapper, an answer given is used up, the fetch counted. -/
def Obligations.DmcFetchRefillsTheBuffer : Prop :=
  ∀ s : State, 0 < s.dmc.bytesRemaining →
    ∃ (b : Byte) (c : Dmc), (∀ x, s.mapper.answers.head? = some x → b = x)
      ∧ dmcFetch s = ((s.setDmc c).setMapper
          { answers := s.mapper.answers.tail, fetchCount := s.mapper.fetchCount + 1 }).setTrace
          (s.trace ++ [.fetch s.dmc.sampleAddress])
      ∧ c = { s.dmc with
          bitBuffer := b
          bitsRemaining := 8
          sampleAddress := c.sampleAddress
          bytesRemaining := c.bytesRemaining
          irqFlag := c.irqFlag }
      ∧ (1 < s.dmc.bytesRemaining ∨ s.dmc.loopFlag = false →
          c.bytesRemaining + 1 = s.dmc.bytesRemaining
          ∧ (s.dmc.sampleAddress.toNat = 0xFFFF → c.sampleAddress.toNat = 0x8000)
          ∧ (s.dmc.sampleAddress.toNat < 0xFFFF → c.sampleAddress.toNat = s.dmc.sampleAddress.toNat + 1))
      ∧ (s.dmc.bytesRemaining = 1 → s.dmc.loopFlag = true →
          c.bytesRemaining = 16 * s.dmc.lengthReg.toNat + 1
          ∧ c.sampleAddress.toNat = 0xC000 + 64 * s.dmc.startReg.toNat)
      ∧ (s.dmc.bytesRemaining = 1 → s.dmc.loopFlag = false → c.irqFlag = (s.dmc.irqFlag || s.dmc.irqEnable))
      ∧ (1 < s.dmc.bytesRemaining ∨ s.dmc.loopFlag = true → c.irqFlag = s.dmc.irqFlag)

/-- Only SAMPLE.DMC fetches, and from a state whose sample address lies in $8000..$FFFF every address it fetches does,
whatever the environment answers. -/
def Obligations.FetchesStayInTheSampleSpace : Prop :=
  ∀ (i : Instr) (s : State), 0x8000 ≤ s.dmc.sampleAddress.toNat →
    ∃ t es, exec i s = .next t ∧ t.trace = s.trace ++ es
      ∧ 0x8000 ≤ t.dmc.sampleAddress.toNat
      ∧ ∀ a, Event.fetch a ∈ es → i = .sampleDmc ∧ 0x8000 ≤ a.toNat

/-- The range of the outputs in every state of the invariant, and so of their sum (decision D17 for the plain sum). The
upper end of the sum is the sum of the five upper ends, 4 + 63/64; the 3 + 63/64 that R223 prints is one short of it
(log entry 20). -/
def Obligations.OutputsAndMixInRange : Prop :=
  ∀ s : State, s.Safe →
    (-1 ≤ pulseOutput s.pulse1 ∧ pulseOutput s.pulse1 ≤ 1) ∧ (-1 ≤ pulseOutput s.pulse2 ∧ pulseOutput s.pulse2 ≤ 1)
    ∧ (-1 ≤ triangleOutput s.tri ∧ triangleOutput s.tri ≤ 1) ∧ (0 ≤ noiseOutput s.noise ∧ noiseOutput s.noise ≤ 1)
    ∧ (-1 ≤ dmcOutput s.dmc ∧ dmcOutput s.dmc ≤ 63 / 64)
    ∧ -4 ≤ mix (pulseOutput s.pulse1) (pulseOutput s.pulse2) (triangleOutput s.tri) (noiseOutput s.noise)
        (dmcOutput s.dmc)
    ∧ mix (pulseOutput s.pulse1) (pulseOutput s.pulse2) (triangleOutput s.tri) (noiseOutput s.noise)
        (dmcOutput s.dmc) ≤ 4 + 63 / 64

/-! ## Interrupts and whole-machine rules -/

/-- The life of the DMC IRQ flag, over all operations (decision D11): cleared only by a $4015 write and a $4010 write
with bit 7 clear, set only by SAMPLE.DMC while the channel and its IRQ are enabled and it does not loop. -/
def Obligations.DmcIrqLifeCycle : Prop :=
  ∀ (i : Instr) (s t : State), exec i s = .next t →
    (s.dmc.irqFlag = true → t.dmc.irqFlag = false → (∃ d, i = .w4015 d) ∨ ∃ d, i = .w4010 d ∧ ¬ BitSet d 7)
    ∧ (s.dmc.irqFlag = false → t.dmc.irqFlag = true →
        i = .sampleDmc ∧ s.dmc.enabled = true ∧ s.dmc.irqEnable = true ∧ s.dmc.loopFlag = false)

/-- The interrupt output is the OR of the two flags, and acknowledging one source leaves the other: after a status read
it is the DMC flag, after a $4015 write it is the frame flag. -/
def Obligations.AcknowledgingOneSourceLeavesTheOther : Prop :=
  ∀ (s : State) (d : Byte), (irqPending s = true ↔ s.frame.irqFlag = true ∨ s.dmc.irqFlag = true)
    ∧ (∃ t, exec .rd4015 s = .next t ∧ irqPending t = s.dmc.irqFlag)
    ∧ (∃ t, exec (.w4015 d) s = .next t ∧ irqPending t = s.frame.irqFlag)

/-- Nothing but a Reset raises a length counter: over all operations, each of the four counters rises only by the write
of its group's last register. -/
def Obligations.OnlyResetsLoadLengthCounters : Prop :=
  ∀ (i : Instr) (s t : State), exec i s = .next t →
    (s.pulse1.len.counter < t.pulse1.len.counter → ∃ d, i = .w4003 d)
    ∧ (s.pulse2.len.counter < t.pulse2.len.counter → ∃ d, i = .w4007 d)
    ∧ (s.tri.len.counter < t.tri.len.counter → ∃ d, i = .w400B d)
    ∧ (s.noise.len.counter < t.noise.len.counter → ∃ d, i = .w400F d)

/-- Who may write what, over all operations: enables only $4015; the sequencer's mode and inhibit only $4017; the shift
register only SAMPLE.NOI; the DMC start and length registers only $4012 and $4013. -/
def Obligations.ControlStateHasOneWriter : Prop :=
  ∀ (i : Instr) (s t : State), exec i s = .next t →
    ((∃ d, i = .w4015 d) ∨ (t.pulse1.enabled = s.pulse1.enabled ∧ t.pulse2.enabled = s.pulse2.enabled
      ∧ t.tri.enabled = s.tri.enabled ∧ t.noise.enabled = s.noise.enabled ∧ t.dmc.enabled = s.dmc.enabled))
    ∧ ((∃ d, i = .w4017 d) ∨ (t.frame.mode = s.frame.mode ∧ t.frame.irqInhibit = s.frame.irqInhibit))
    ∧ (i = .sampleNoi ∨ t.noise.lfsr = s.noise.lfsr)
    ∧ ((∃ d, i = .w4012 d) ∨ t.dmc.startReg = s.dmc.startReg)
    ∧ ((∃ d, i = .w4013 d) ∨ t.dmc.lengthReg = s.dmc.lengthReg)

/-- The two pulse channels are one design (decision D24): each write of pulse 2 is the write of pulse 1 with the channels
exchanged, and TICK does not tell them apart. -/
def Obligations.PulseChannelsAreIdentical : Prop :=
  ∀ (d : Byte) (n : Nat) (s : State),
    (∃ t, exec (.w4000 d) s = .next t ∧ exec (.w4004 d) s.swapPulses = .next t.swapPulses)
    ∧ (∃ t, exec (.w4001 d) s = .next t ∧ exec (.w4005 d) s.swapPulses = .next t.swapPulses)
    ∧ (∃ t, exec (.w4002 d) s = .next t ∧ exec (.w4006 d) s.swapPulses = .next t.swapPulses)
    ∧ (∃ t, exec (.w4003 d) s = .next t ∧ exec (.w4007 d) s.swapPulses = .next t.swapPulses)
    ∧ (∃ t, exec (.tick n) s = .next t ∧ exec (.tick n) s.swapPulses = .next t.swapPulses)

/-! ## Power-on and the invariant -/

/-- Power-on: the whole table of R38 (4-step mode, IRQ not inhibited and shift register 1 are the source's, every other
row is decision D19, log entry 8), and the idle block: whatever the sample rate, every SAMPLE returns 0 but SAMPLE.DMC,
which returns -1, and the frame IRQ is up exactly from 29828 cycles on (decision D7 for the cycle count). -/
def Obligations.PowerOnBlockIsIdle : Prop :=
  PowerOnTable State.reset
  ∧ (∃ t, exec .sampleP1 State.reset = .next t ∧ t.trace = [.sample .p1 0])
  ∧ (∃ t, exec .sampleP2 State.reset = .next t ∧ t.trace = [.sample .p2 0])
  ∧ (∃ t, exec .sampleTri State.reset = .next t ∧ t.trace = [.sample .tri 0])
  ∧ (∃ t, exec .sampleNoi State.reset = .next t ∧ t.trace = [.sample .noi 0])
  ∧ (∃ t, exec .sampleDmc State.reset = .next t ∧ t.trace = [.sample .dmc (-1)])
  ∧ (∀ n, ∃ t, exec (.tick n) State.reset = .next t ∧ (irqPending t = true ↔ 29828 ≤ n))

/-- A warm reset puts every field of the block back to the table of R38, from any state, and keeps the open parameters
and the environment's side (decisions D19, D20, log entries 8, 19: an act of the environment, not an operation). -/
def Obligations.ResetBlockRestoresPowerOn : Prop :=
  ∀ s : State, PowerOnTable (resetBlock s) ∧ (resetBlock s).cfg = s.cfg ∧ (resetBlock s).mapper = s.mapper
    ∧ (resetBlock s).pending = s.pending ∧ (resetBlock s).trace = s.trace

/-- The invariant of R39 holds at reset, whatever the free sample rate is (power-on values: decision D19, log entry
8). -/
def Obligations.ResetIsSafe : Prop := State.reset.Safe

/-- Every step keeps the invariant of R39: ranges, the one-bit pairs, the nonzero shift register, dividers at least 1
under `ZERO_AFTER_DECREMENT`, phases in [0, 1), accumulator below 7457, step counts, sample address. -/
def Obligations.StepKeepsTheInvariant : Prop :=
  ∀ s t : State, s.Safe → step s = .next t → t.Safe
end

