-- ==== Sys2Proof/Laws/State.lean ====
section
/-! SUPPORT. One lemma per field per update of State, each true by rfl, so that no proof unfolds a record update. -/

namespace Sys2Proof.Machine

@[simp] theorem State.setPulse1_cfg (s : State) (x : Pulse) : (s.setPulse1 x).cfg = s.cfg := rfl
@[simp] theorem State.setPulse1_pulse1 (s : State) (x : Pulse) : (s.setPulse1 x).pulse1 = x := rfl
@[simp] theorem State.setPulse1_pulse2 (s : State) (x : Pulse) : (s.setPulse1 x).pulse2 = s.pulse2 := rfl
@[simp] theorem State.setPulse1_tri (s : State) (x : Pulse) : (s.setPulse1 x).tri = s.tri := rfl
@[simp] theorem State.setPulse1_noise (s : State) (x : Pulse) : (s.setPulse1 x).noise = s.noise := rfl
@[simp] theorem State.setPulse1_dmc (s : State) (x : Pulse) : (s.setPulse1 x).dmc = s.dmc := rfl
@[simp] theorem State.setPulse1_frame (s : State) (x : Pulse) : (s.setPulse1 x).frame = s.frame := rfl
@[simp] theorem State.setPulse1_mapper (s : State) (x : Pulse) : (s.setPulse1 x).mapper = s.mapper := rfl
@[simp] theorem State.setPulse1_pending (s : State) (x : Pulse) : (s.setPulse1 x).pending = s.pending := rfl
@[simp] theorem State.setPulse1_trace (s : State) (x : Pulse) : (s.setPulse1 x).trace = s.trace := rfl
@[simp] theorem State.setPulse1_setPulse1 (s : State) (x y : Pulse) : (s.setPulse1 x).setPulse1 y = s.setPulse1 y := rfl

@[simp] theorem State.setPulse2_cfg (s : State) (x : Pulse) : (s.setPulse2 x).cfg = s.cfg := rfl
@[simp] theorem State.setPulse2_pulse1 (s : State) (x : Pulse) : (s.setPulse2 x).pulse1 = s.pulse1 := rfl
@[simp] theorem State.setPulse2_pulse2 (s : State) (x : Pulse) : (s.setPulse2 x).pulse2 = x := rfl
@[simp] theorem State.setPulse2_tri (s : State) (x : Pulse) : (s.setPulse2 x).tri = s.tri := rfl
@[simp] theorem State.setPulse2_noise (s : State) (x : Pulse) : (s.setPulse2 x).noise = s.noise := rfl
@[simp] theorem State.setPulse2_dmc (s : State) (x : Pulse) : (s.setPulse2 x).dmc = s.dmc := rfl
@[simp] theorem State.setPulse2_frame (s : State) (x : Pulse) : (s.setPulse2 x).frame = s.frame := rfl
@[simp] theorem State.setPulse2_mapper (s : State) (x : Pulse) : (s.setPulse2 x).mapper = s.mapper := rfl
@[simp] theorem State.setPulse2_pending (s : State) (x : Pulse) : (s.setPulse2 x).pending = s.pending := rfl
@[simp] theorem State.setPulse2_trace (s : State) (x : Pulse) : (s.setPulse2 x).trace = s.trace := rfl
@[simp] theorem State.setPulse2_setPulse2 (s : State) (x y : Pulse) : (s.setPulse2 x).setPulse2 y = s.setPulse2 y := rfl

@[simp] theorem State.setTri_cfg (s : State) (x : Triangle) : (s.setTri x).cfg = s.cfg := rfl
@[simp] theorem State.setTri_pulse1 (s : State) (x : Triangle) : (s.setTri x).pulse1 = s.pulse1 := rfl
@[simp] theorem State.setTri_pulse2 (s : State) (x : Triangle) : (s.setTri x).pulse2 = s.pulse2 := rfl
@[simp] theorem State.setTri_tri (s : State) (x : Triangle) : (s.setTri x).tri = x := rfl
@[simp] theorem State.setTri_noise (s : State) (x : Triangle) : (s.setTri x).noise = s.noise := rfl
@[simp] theorem State.setTri_dmc (s : State) (x : Triangle) : (s.setTri x).dmc = s.dmc := rfl
@[simp] theorem State.setTri_frame (s : State) (x : Triangle) : (s.setTri x).frame = s.frame := rfl
@[simp] theorem State.setTri_mapper (s : State) (x : Triangle) : (s.setTri x).mapper = s.mapper := rfl
@[simp] theorem State.setTri_pending (s : State) (x : Triangle) : (s.setTri x).pending = s.pending := rfl
@[simp] theorem State.setTri_trace (s : State) (x : Triangle) : (s.setTri x).trace = s.trace := rfl
@[simp] theorem State.setTri_setTri (s : State) (x y : Triangle) : (s.setTri x).setTri y = s.setTri y := rfl

@[simp] theorem State.setNoise_cfg (s : State) (x : Noise) : (s.setNoise x).cfg = s.cfg := rfl
@[simp] theorem State.setNoise_pulse1 (s : State) (x : Noise) : (s.setNoise x).pulse1 = s.pulse1 := rfl
@[simp] theorem State.setNoise_pulse2 (s : State) (x : Noise) : (s.setNoise x).pulse2 = s.pulse2 := rfl
@[simp] theorem State.setNoise_tri (s : State) (x : Noise) : (s.setNoise x).tri = s.tri := rfl
@[simp] theorem State.setNoise_noise (s : State) (x : Noise) : (s.setNoise x).noise = x := rfl
@[simp] theorem State.setNoise_dmc (s : State) (x : Noise) : (s.setNoise x).dmc = s.dmc := rfl
@[simp] theorem State.setNoise_frame (s : State) (x : Noise) : (s.setNoise x).frame = s.frame := rfl
@[simp] theorem State.setNoise_mapper (s : State) (x : Noise) : (s.setNoise x).mapper = s.mapper := rfl
@[simp] theorem State.setNoise_pending (s : State) (x : Noise) : (s.setNoise x).pending = s.pending := rfl
@[simp] theorem State.setNoise_trace (s : State) (x : Noise) : (s.setNoise x).trace = s.trace := rfl
@[simp] theorem State.setNoise_setNoise (s : State) (x y : Noise) : (s.setNoise x).setNoise y = s.setNoise y := rfl

@[simp] theorem State.setDmc_cfg (s : State) (x : Dmc) : (s.setDmc x).cfg = s.cfg := rfl
@[simp] theorem State.setDmc_pulse1 (s : State) (x : Dmc) : (s.setDmc x).pulse1 = s.pulse1 := rfl
@[simp] theorem State.setDmc_pulse2 (s : State) (x : Dmc) : (s.setDmc x).pulse2 = s.pulse2 := rfl
@[simp] theorem State.setDmc_tri (s : State) (x : Dmc) : (s.setDmc x).tri = s.tri := rfl
@[simp] theorem State.setDmc_noise (s : State) (x : Dmc) : (s.setDmc x).noise = s.noise := rfl
@[simp] theorem State.setDmc_dmc (s : State) (x : Dmc) : (s.setDmc x).dmc = x := rfl
@[simp] theorem State.setDmc_frame (s : State) (x : Dmc) : (s.setDmc x).frame = s.frame := rfl
@[simp] theorem State.setDmc_mapper (s : State) (x : Dmc) : (s.setDmc x).mapper = s.mapper := rfl
@[simp] theorem State.setDmc_pending (s : State) (x : Dmc) : (s.setDmc x).pending = s.pending := rfl
@[simp] theorem State.setDmc_trace (s : State) (x : Dmc) : (s.setDmc x).trace = s.trace := rfl
@[simp] theorem State.setDmc_setDmc (s : State) (x y : Dmc) : (s.setDmc x).setDmc y = s.setDmc y := rfl

@[simp] theorem State.setFrame_cfg (s : State) (x : FrameSequencer) : (s.setFrame x).cfg = s.cfg := rfl
@[simp] theorem State.setFrame_pulse1 (s : State) (x : FrameSequencer) : (s.setFrame x).pulse1 = s.pulse1 := rfl
@[simp] theorem State.setFrame_pulse2 (s : State) (x : FrameSequencer) : (s.setFrame x).pulse2 = s.pulse2 := rfl
@[simp] theorem State.setFrame_tri (s : State) (x : FrameSequencer) : (s.setFrame x).tri = s.tri := rfl
@[simp] theorem State.setFrame_noise (s : State) (x : FrameSequencer) : (s.setFrame x).noise = s.noise := rfl
@[simp] theorem State.setFrame_dmc (s : State) (x : FrameSequencer) : (s.setFrame x).dmc = s.dmc := rfl
@[simp] theorem State.setFrame_frame (s : State) (x : FrameSequencer) : (s.setFrame x).frame = x := rfl
@[simp] theorem State.setFrame_mapper (s : State) (x : FrameSequencer) : (s.setFrame x).mapper = s.mapper := rfl
@[simp] theorem State.setFrame_pending (s : State) (x : FrameSequencer) : (s.setFrame x).pending = s.pending := rfl
@[simp] theorem State.setFrame_trace (s : State) (x : FrameSequencer) : (s.setFrame x).trace = s.trace := rfl
@[simp] theorem State.setFrame_setFrame (s : State) (x y : FrameSequencer) : (s.setFrame x).setFrame y = s.setFrame y := rfl

@[simp] theorem State.setMapper_cfg (s : State) (x : Mapper) : (s.setMapper x).cfg = s.cfg := rfl
@[simp] theorem State.setMapper_pulse1 (s : State) (x : Mapper) : (s.setMapper x).pulse1 = s.pulse1 := rfl
@[simp] theorem State.setMapper_pulse2 (s : State) (x : Mapper) : (s.setMapper x).pulse2 = s.pulse2 := rfl
@[simp] theorem State.setMapper_tri (s : State) (x : Mapper) : (s.setMapper x).tri = s.tri := rfl
@[simp] theorem State.setMapper_noise (s : State) (x : Mapper) : (s.setMapper x).noise = s.noise := rfl
@[simp] theorem State.setMapper_dmc (s : State) (x : Mapper) : (s.setMapper x).dmc = s.dmc := rfl
@[simp] theorem State.setMapper_frame (s : State) (x : Mapper) : (s.setMapper x).frame = s.frame := rfl
@[simp] theorem State.setMapper_mapper (s : State) (x : Mapper) : (s.setMapper x).mapper = x := rfl
@[simp] theorem State.setMapper_pending (s : State) (x : Mapper) : (s.setMapper x).pending = s.pending := rfl
@[simp] theorem State.setMapper_trace (s : State) (x : Mapper) : (s.setMapper x).trace = s.trace := rfl
@[simp] theorem State.setMapper_setMapper (s : State) (x y : Mapper) : (s.setMapper x).setMapper y = s.setMapper y := rfl

@[simp] theorem State.setPending_cfg (s : State) (x : List Request) : (s.setPending x).cfg = s.cfg := rfl
@[simp] theorem State.setPending_pulse1 (s : State) (x : List Request) : (s.setPending x).pulse1 = s.pulse1 := rfl
@[simp] theorem State.setPending_pulse2 (s : State) (x : List Request) : (s.setPending x).pulse2 = s.pulse2 := rfl
@[simp] theorem State.setPending_tri (s : State) (x : List Request) : (s.setPending x).tri = s.tri := rfl
@[simp] theorem State.setPending_noise (s : State) (x : List Request) : (s.setPending x).noise = s.noise := rfl
@[simp] theorem State.setPending_dmc (s : State) (x : List Request) : (s.setPending x).dmc = s.dmc := rfl
@[simp] theorem State.setPending_frame (s : State) (x : List Request) : (s.setPending x).frame = s.frame := rfl
@[simp] theorem State.setPending_mapper (s : State) (x : List Request) : (s.setPending x).mapper = s.mapper := rfl
@[simp] theorem State.setPending_pending (s : State) (x : List Request) : (s.setPending x).pending = x := rfl
@[simp] theorem State.setPending_trace (s : State) (x : List Request) : (s.setPending x).trace = s.trace := rfl
@[simp] theorem State.setPending_setPending (s : State) (x y : List Request) : (s.setPending x).setPending y = s.setPending y := rfl

@[simp] theorem State.setTrace_cfg (s : State) (x : List Event) : (s.setTrace x).cfg = s.cfg := rfl
@[simp] theorem State.setTrace_pulse1 (s : State) (x : List Event) : (s.setTrace x).pulse1 = s.pulse1 := rfl
@[simp] theorem State.setTrace_pulse2 (s : State) (x : List Event) : (s.setTrace x).pulse2 = s.pulse2 := rfl
@[simp] theorem State.setTrace_tri (s : State) (x : List Event) : (s.setTrace x).tri = s.tri := rfl
@[simp] theorem State.setTrace_noise (s : State) (x : List Event) : (s.setTrace x).noise = s.noise := rfl
@[simp] theorem State.setTrace_dmc (s : State) (x : List Event) : (s.setTrace x).dmc = s.dmc := rfl
@[simp] theorem State.setTrace_frame (s : State) (x : List Event) : (s.setTrace x).frame = s.frame := rfl
@[simp] theorem State.setTrace_mapper (s : State) (x : List Event) : (s.setTrace x).mapper = s.mapper := rfl
@[simp] theorem State.setTrace_pending (s : State) (x : List Event) : (s.setTrace x).pending = s.pending := rfl
@[simp] theorem State.setTrace_trace (s : State) (x : List Event) : (s.setTrace x).trace = x := rfl
@[simp] theorem State.setTrace_setTrace (s : State) (x y : List Event) : (s.setTrace x).setTrace y = s.setTrace y := rfl

@[simp] theorem State.emit_cfg (s : State) (e : Event) : (s.emit e).cfg = s.cfg := rfl
@[simp] theorem State.emit_pulse1 (s : State) (e : Event) : (s.emit e).pulse1 = s.pulse1 := rfl
@[simp] theorem State.emit_pulse2 (s : State) (e : Event) : (s.emit e).pulse2 = s.pulse2 := rfl
@[simp] theorem State.emit_tri (s : State) (e : Event) : (s.emit e).tri = s.tri := rfl
@[simp] theorem State.emit_noise (s : State) (e : Event) : (s.emit e).noise = s.noise := rfl
@[simp] theorem State.emit_dmc (s : State) (e : Event) : (s.emit e).dmc = s.dmc := rfl
@[simp] theorem State.emit_frame (s : State) (e : Event) : (s.emit e).frame = s.frame := rfl
@[simp] theorem State.emit_mapper (s : State) (e : Event) : (s.emit e).mapper = s.mapper := rfl
@[simp] theorem State.emit_pending (s : State) (e : Event) : (s.emit e).pending = s.pending := rfl
@[simp] theorem State.emit_trace (s : State) (e : Event) : (s.emit e).trace = s.trace ++ [e] := rfl

end Sys2Proof.Machine
end

