-- ==== Sys2Proof/Laws/Units.lean ====
section
/-! SUPPORT. What each unit operation can do: one case lemma per tick, and what it leaves alone. -/

namespace Sys2Proof.Machine

/-! ## Dividers and envelopes -/

/-- A divider tick underflows, or counts down by one. -/
theorem dividerTick_cases (conv : DividerConvention) (n : Nat) :
    (dividerTick conv n = none ∧ ((conv = .zeroAfterDecrement ∧ n ≤ 1) ∨ (conv = .belowZero ∧ n = 0)))
    ∨ (dividerTick conv n = some (n - 1)
        ∧ ((conv = .zeroAfterDecrement ∧ 2 ≤ n) ∨ (conv = .belowZero ∧ 1 ≤ n))) := by
  cases conv with
  | zeroAfterDecrement =>
    by_cases h : n - 1 = 0
    · exact .inl ⟨by simp [dividerTick, h], .inl ⟨rfl, by omega⟩⟩
    · exact .inr ⟨by simp [dividerTick, h], .inl ⟨rfl, by omega⟩⟩
  | belowZero =>
    by_cases h : n = 0
    · exact .inl ⟨by simp [dividerTick, h], .inr ⟨rfl, h⟩⟩
    · exact .inr ⟨by simp [dividerTick, h], .inr ⟨rfl, by omega⟩⟩

@[simp] theorem envelopeUnderflow_volume (e : Envelope) : (envelopeUnderflow e).volume = e.volume := rfl
@[simp] theorem envelopeUnderflow_constantVolume (e : Envelope) :
    (envelopeUnderflow e).constantVolume = e.constantVolume := rfl
@[simp] theorem envelopeUnderflow_loop (e : Envelope) : (envelopeUnderflow e).loop = e.loop := rfl
@[simp] theorem envelopeUnderflow_divider (e : Envelope) :
    (envelopeUnderflow e).divider = e.volume.toNat + 1 := rfl

/-- An envelope tick underflows, or counts its divider down. -/
theorem envelopeTick_cases (conv : DividerConvention) (e : Envelope) :
    (dividerTick conv e.divider = none ∧ envelopeTick conv e = envelopeUnderflow e)
    ∨ (dividerTick conv e.divider = some (e.divider - 1)
        ∧ envelopeTick conv e = { e with divider := e.divider - 1 }) := by
  rcases dividerTick_cases conv e.divider with ⟨h, -⟩ | ⟨h, -⟩
  · exact .inl ⟨h, by simp [envelopeTick, h]⟩
  · exact .inr ⟨h, by simp [envelopeTick, h]⟩

@[simp] theorem envelopeTick_volume (conv : DividerConvention) (e : Envelope) :
    (envelopeTick conv e).volume = e.volume := by
  rcases envelopeTick_cases conv e with ⟨-, h⟩ | ⟨-, h⟩ <;> simp [h]
@[simp] theorem envelopeTick_constantVolume (conv : DividerConvention) (e : Envelope) :
    (envelopeTick conv e).constantVolume = e.constantVolume := by
  rcases envelopeTick_cases conv e with ⟨-, h⟩ | ⟨-, h⟩ <;> simp [h]
@[simp] theorem envelopeTick_loop (conv : DividerConvention) (e : Envelope) :
    (envelopeTick conv e).loop = e.loop := by
  rcases envelopeTick_cases conv e with ⟨-, h⟩ | ⟨-, h⟩ <;> simp [h]

/-- An envelope tick changes the divider and the decay counter only. -/
theorem envelopeTick_eq (conv : DividerConvention) (e : Envelope) :
    envelopeTick conv e = { e with
      decayCounter := (envelopeTick conv e).decayCounter, divider := (envelopeTick conv e).divider } := by
  rcases envelopeTick_cases conv e with ⟨-, h⟩ | ⟨-, h⟩
  · rw [h]
    rfl
  · rw [h]

/-- The decay counter after an underflow stays within 15. -/
theorem envelopeUnderflow_decayCounter_le (e : Envelope) (h : e.decayCounter ≤ 15) :
    (envelopeUnderflow e).decayCounter ≤ 15 := by
  simp only [envelopeUnderflow]
  split
  · omega
  · split <;> omega

/-! ## Length and linear counters -/

@[simp] theorem lengthTick_halt (l : LengthCounter) : (lengthTick l).halt = l.halt := by
  unfold lengthTick
  split <;> rfl

/-- A length tick changes the counter only. -/
theorem lengthTick_eq (l : LengthCounter) : lengthTick l = { l with counter := (lengthTick l).counter } := by
  unfold lengthTick
  split <;> rfl

/-- The counter after a length tick: halted it stays, else it counts down to 0 and stops there. -/
theorem lengthTick_counter (l : LengthCounter) :
    (lengthTick l).counter = if l.halt then l.counter else l.counter - 1 := by
  unfold lengthTick
  cases l.halt
  · by_cases h : 0 < l.counter
    · simp [h]
    · simp [h]
      omega
  · simp

theorem lengthTick_counter_le (l : LengthCounter) : (lengthTick l).counter ≤ l.counter := by
  rw [lengthTick_counter]
  split <;> omega

@[simp] theorem linearTick_reloadValue (k : LinearCounter) : (linearTick k).reloadValue = k.reloadValue := rfl
@[simp] theorem linearTick_controlFlag (k : LinearCounter) : (linearTick k).controlFlag = k.controlFlag := rfl
@[simp] theorem linearTick_reloadFlag (k : LinearCounter) :
    (linearTick k).reloadFlag = (k.reloadFlag && k.controlFlag) := rfl

theorem linearTick_counter (k : LinearCounter) :
    (linearTick k).counter = if k.reloadFlag then k.reloadValue.toNat else k.counter - 1 := by
  simp only [linearTick]
  split
  · rfl
  · split <;> omega

theorem linearTick_counter_le (k : LinearCounter) (h : k.counter ≤ 127) : (linearTick k).counter ≤ 127 := by
  have := k.reloadValue.isLt
  rw [linearTick_counter]
  split <;> omega

/-! ## The sweep -/

/-- The target is at most period plus half of it, and the target over the integers is the exact one. -/
theorem sweepTarget_le (c : Pulse) (h : c.sweep.shiftCount ≠ 0) : sweepTarget c ≤ 0xBFE := by
  have hp := c.timerPeriod.isLt
  have hs : 1 ≤ c.sweep.shiftCount.toNat := by
    rcases Nat.eq_zero_or_pos c.sweep.shiftCount.toNat with h0 | h0
    · exact absurd (BitVec.eq_of_toNat_eq (by simpa using h0)) h
    · exact h0
  have hd : c.timerPeriod.toNat >>> c.sweep.shiftCount.toNat ≤ 1023 := by
    rw [Nat.shiftRight_eq_div_pow]
    calc c.timerPeriod.toNat / 2 ^ c.sweep.shiftCount.toNat
        ≤ c.timerPeriod.toNat / 2 ^ 1 := Nat.div_le_div_left (Nat.pow_le_pow_right (by omega) hs) (by omega)
      _ ≤ 1023 := by omega
  simp only [sweepTarget]
  generalize c.timerPeriod.toNat >>> c.sweep.shiftCount.toNat = delta at *
  split <;> omega

/-- A sweep tick counts its divider down, or reloads it and does no more, or computes a target and applies it. -/
theorem sweepTick_cases (conv : DividerConvention) (c : Pulse) :
    (dividerTick conv c.sweep.divider = some (c.sweep.divider - 1)
      ∧ sweepTick conv c = { c with sweep := { c.sweep with divider := c.sweep.divider - 1 } })
    ∨ (dividerTick conv c.sweep.divider = none
      ∧ ¬ (c.sweep.enabled ∧ c.sweep.shiftCount ≠ 0 ∧ c.len.counter ≠ 0)
      ∧ sweepTick conv c = { c with sweep := { c.sweep with divider := c.sweep.period.toNat + 1 } })
    ∨ (dividerTick conv c.sweep.divider = none
      ∧ (c.sweep.enabled ∧ c.sweep.shiftCount ≠ 0 ∧ c.len.counter ≠ 0)
      ∧ (sweepTarget c < 8 ∨ 0x7FF < sweepTarget c)
      ∧ sweepTick conv c = { c with
          sweep := { c.sweep with divider := c.sweep.period.toNat + 1, targetPeriod := sweepTarget c }
          len := { c.len with counter := 0 } })
    ∨ (dividerTick conv c.sweep.divider = none
      ∧ (c.sweep.enabled ∧ c.sweep.shiftCount ≠ 0 ∧ c.len.counter ≠ 0)
      ∧ (8 ≤ sweepTarget c ∧ sweepTarget c ≤ 0x7FF)
      ∧ sweepTick conv c = { c with
          sweep := { c.sweep with divider := c.sweep.period.toNat + 1, targetPeriod := sweepTarget c }
          timerPeriod := BitVec.ofNat 11 (sweepTarget c) }) := by
  rcases dividerTick_cases conv c.sweep.divider with ⟨h, -⟩ | ⟨h, -⟩
  · by_cases hg : c.sweep.enabled ∧ c.sweep.shiftCount ≠ 0 ∧ c.len.counter ≠ 0
    · by_cases ht : sweepTarget c < 8 ∨ 0x7FF < sweepTarget c
      · exact .inr (.inr (.inl ⟨h, hg, ht, by simp only [sweepTick, h, sweepUnderflow, if_pos hg, sweepApply, if_pos ht]⟩))
      · exact .inr (.inr (.inr ⟨h, hg, by omega,
          by simp only [sweepTick, h, sweepUnderflow, if_pos hg, sweepApply, if_neg ht]⟩))
    · exact .inr (.inl ⟨h, hg, by simp only [sweepTick, h, sweepUnderflow, if_neg hg]⟩)
  · exact .inl ⟨h, by simp only [sweepTick, h]⟩

@[simp] theorem sweepTick_duty (conv : DividerConvention) (c : Pulse) : (sweepTick conv c).duty = c.duty := by
  rcases sweepTick_cases conv c with ⟨-, h⟩ | ⟨-, -, h⟩ | ⟨-, -, -, h⟩ | ⟨-, -, -, h⟩ <;> simp [h]
@[simp] theorem sweepTick_lengthIndex (conv : DividerConvention) (c : Pulse) :
    (sweepTick conv c).lengthIndex = c.lengthIndex := by
  rcases sweepTick_cases conv c with ⟨-, h⟩ | ⟨-, -, h⟩ | ⟨-, -, -, h⟩ | ⟨-, -, -, h⟩ <;> simp [h]
@[simp] theorem sweepTick_enabled (conv : DividerConvention) (c : Pulse) : (sweepTick conv c).enabled = c.enabled := by
  rcases sweepTick_cases conv c with ⟨-, h⟩ | ⟨-, -, h⟩ | ⟨-, -, -, h⟩ | ⟨-, -, -, h⟩ <;> simp [h]
@[simp] theorem sweepTick_phase (conv : DividerConvention) (c : Pulse) : (sweepTick conv c).phase = c.phase := by
  rcases sweepTick_cases conv c with ⟨-, h⟩ | ⟨-, -, h⟩ | ⟨-, -, -, h⟩ | ⟨-, -, -, h⟩ <;> simp [h]
@[simp] theorem sweepTick_env (conv : DividerConvention) (c : Pulse) : (sweepTick conv c).env = c.env := by
  rcases sweepTick_cases conv c with ⟨-, h⟩ | ⟨-, -, h⟩ | ⟨-, -, -, h⟩ | ⟨-, -, -, h⟩ <;> simp [h]
@[simp] theorem sweepTick_halt (conv : DividerConvention) (c : Pulse) : (sweepTick conv c).len.halt = c.len.halt := by
  rcases sweepTick_cases conv c with ⟨-, h⟩ | ⟨-, -, h⟩ | ⟨-, -, -, h⟩ | ⟨-, -, -, h⟩ <;> simp [h]

/-- Of the sweep's own fields only divider and target change. -/
theorem sweepTick_sweep (conv : DividerConvention) (c : Pulse) :
    (sweepTick conv c).sweep = { c.sweep with
      divider := (sweepTick conv c).sweep.divider, targetPeriod := (sweepTick conv c).sweep.targetPeriod } := by
  rcases sweepTick_cases conv c with ⟨-, h⟩ | ⟨-, -, h⟩ | ⟨-, -, -, h⟩ | ⟨-, -, -, h⟩ <;> simp [h]

/-- A sweep tick leaves the length counter or zeroes it. -/
theorem sweepTick_counter_le (conv : DividerConvention) (c : Pulse) :
    (sweepTick conv c).len.counter ≤ c.len.counter := by
  rcases sweepTick_cases conv c with ⟨-, h⟩ | ⟨-, -, h⟩ | ⟨-, -, -, h⟩ | ⟨-, -, -, h⟩ <;> simp [h]

/-! ## The noise register -/

/-- The low 14 bits after a step are the high 14 before it. -/
theorem lfsrStep_getLsbD (mode : NoiseMode) (r : BitVec 15) (i : Nat) (h : i < 14) :
    (lfsrStep mode r).getLsbD i = r.getLsbD (i + 1) := by
  simp only [lfsrStep, BitVec.getLsbD_append, if_true, BitVec.getLsbD_extractLsb', h, decide_true, Bool.true_and,
    Nat.add_comm 1 i]

/-- The top bit after a step is the feedback. -/
theorem lfsrStep_top (mode : NoiseMode) (r : BitVec 15) :
    (lfsrStep mode r).getLsbD 14
      = (r.getLsbD 0 ^^ match mode with | .short => r.getLsbD 6 | .long => r.getLsbD 1) := by
  simp only [lfsrStep, BitVec.getLsbD_append]
  cases mode <;> simp

/-- A step of the shift register, as a number: half the old one, and the feedback at weight 2^14. -/
theorem lfsrStep_toNat (mode : NoiseMode) (r : BitVec 15) :
    (lfsrStep mode r).toNat
      = (r.getLsbD 0 ^^ match mode with | .short => r.getLsbD 6 | .long => r.getLsbD 1).toNat * 16384
        + r.toNat / 2 := by
  have hr := r.isLt
  have h : ∀ x : Bool, (BitVec.ofBool x ++ r.extractLsb' 1 14).toNat = x.toNat * 16384 + r.toNat / 2 := by
    intro x
    rw [BitVec.toNat_append, BitVec.toNat_ofBool, ← Nat.shiftLeft_add_eq_or_of_lt (BitVec.isLt _), Nat.shiftLeft_eq,
      BitVec.extractLsb'_toNat, Nat.shiftRight_eq_div_pow]
    omega
  cases mode <;> exact h _

/-- The spec's loop of k steps is the k-fold iterate of one step. -/
theorem lfsrSteps_eq_iterate (mode : NoiseMode) (k : Nat) (r : BitVec 15) :
    lfsrSteps mode k r = (lfsrStep mode)^[k] r := by
  induction k generalizing r with
  | zero => rfl
  | succ k ih => rw [Function.iterate_succ_apply]; exact ih _

theorem lfsrSteps_add (mode : NoiseMode) (j k : Nat) (r : BitVec 15) :
    lfsrSteps mode (j + k) r = lfsrSteps mode k (lfsrSteps mode j r) := by
  rw [lfsrSteps_eq_iterate, lfsrSteps_eq_iterate, lfsrSteps_eq_iterate, Nat.add_comm, Function.iterate_add_apply]

/-! ## The sample clock -/

/-- The phase after an advance is the fractional part of the exact sum. -/
theorem phaseAdvance_fst (cfg : Config) (ph f : Rat) : (phaseAdvance cfg ph f).1 = Int.fract (ph + f / cfg.fs) := rfl

/-- The wraps counted by an advance. -/
theorem phaseAdvance_snd (cfg : Config) (ph f : Rat) : (phaseAdvance cfg ph f).2 = ⌊ph + f / cfg.fs⌋.toNat := rfl

theorem phaseAdvance_nonneg (cfg : Config) (ph f : Rat) : 0 ≤ (phaseAdvance cfg ph f).1 := Int.fract_nonneg _

theorem phaseAdvance_lt_one (cfg : Config) (ph f : Rat) : (phaseAdvance cfg ph f).1 < 1 := Int.fract_lt_one _

end Sys2Proof.Machine
end

