-- ==== Sys2Proof/Laws/Dmc.lean ====
section
/-! SUPPORT. What the DMC operations can do: which fields each leaves alone, the ranges they keep, the k-fold bit clock
as an iterate, and the fetch port. -/

namespace Sys2Proof.Machine

/-- The address a $4012 byte denotes, as a number (R94, R100(b)). -/
theorem dmcStartAddress_toNat (a : Byte) : (dmcStartAddress a).toNat = 0xC000 + 64 * a.toNat := by
  have := a.isLt
  simp only [dmcStartAddress, BitVec.toNat_add, BitVec.toNat_mul, BitVec.toNat_setWidth, BitVec.toNat_ofNat]
  omega

/-- The next sample address, as a number (R219). -/
theorem nextSampleAddress_toNat (a : Addr) :
    (nextSampleAddress a).toNat = if a.toNat = 0xFFFF then 0x8000 else a.toNat + 1 := by
  have ha := a.isLt
  by_cases h : a = 0xFFFF#16
  · subst h
    rfl
  · have hn : a.toNat ≠ 0xFFFF := fun e => h (BitVec.eq_of_toNat_eq (by simpa using e))
    simp only [nextSampleAddress, if_neg h, if_neg hn, BitVec.toNat_add, BitVec.toNat_ofNat]
    omega

/-- The fields no bit clock and no fetch touches: the register latches, the enable and the phase. -/
structure Dmc.SameLatches (c c' : Dmc) : Prop where
  irqEnable : c'.irqEnable = c.irqEnable
  loopFlag : c'.loopFlag = c.loopFlag
  rateIndex : c'.rateIndex = c.rateIndex
  startReg : c'.startReg = c.startReg
  lengthReg : c'.lengthReg = c.lengthReg
  enabled : c'.enabled = c.enabled
  phase : c'.phase = c.phase

theorem Dmc.SameLatches.refl (c : Dmc) : c.SameLatches c := ⟨rfl, rfl, rfl, rfl, rfl, rfl, rfl⟩

theorem Dmc.SameLatches.trans {a b c : Dmc} (h : a.SameLatches b) (h' : b.SameLatches c) : a.SameLatches c :=
  ⟨h'.1.trans h.1, h'.2.trans h.2, h'.3.trans h.3, h'.4.trans h.4, h'.5.trans h.5, h'.6.trans h.6, h'.7.trans h.7⟩

theorem dmcConsume_sameLatches (c : Dmc) : c.SameLatches (dmcConsume c) := by
  simp only [dmcConsume]
  split <;> exact ⟨rfl, rfl, rfl, rfl, rfl, rfl, rfl⟩

/-- Consuming a bit touches neither the address, nor the byte count, nor the flag. -/
theorem dmcConsume_keeps (c : Dmc) :
    (dmcConsume c).sampleAddress = c.sampleAddress ∧ (dmcConsume c).bytesRemaining = c.bytesRemaining
    ∧ (dmcConsume c).irqFlag = c.irqFlag := by
  simp only [dmcConsume]
  split <;> exact ⟨rfl, rfl, rfl⟩

/-- The end-of-sample action: nothing, a restart, or a request (R219). -/
theorem dmcSampleEnd_cases (c : Dmc) :
    (c.bytesRemaining ≠ 0 ∧ dmcSampleEnd c = c)
    ∨ (c.bytesRemaining = 0 ∧ c.loopFlag = true ∧ dmcSampleEnd c = dmcRestart c)
    ∨ (c.bytesRemaining = 0 ∧ c.loopFlag = false ∧ c.irqEnable = true ∧ dmcSampleEnd c = { c with irqFlag := true })
    ∨ (c.bytesRemaining = 0 ∧ c.loopFlag = false ∧ c.irqEnable = false ∧ dmcSampleEnd c = c) := by
  by_cases h0 : c.bytesRemaining = 0
  · cases hl : c.loopFlag with
    | true => exact .inr (.inl ⟨h0, rfl, by simp [dmcSampleEnd, h0, hl]⟩)
    | false =>
      cases hi : c.irqEnable with
      | true => exact .inr (.inr (.inl ⟨h0, rfl, rfl, by simp [dmcSampleEnd, h0, hl, Dmc.requestIrq, hi]⟩))
      | false => exact .inr (.inr (.inr ⟨h0, rfl, rfl, by simp [dmcSampleEnd, h0, hl, Dmc.requestIrq, hi]⟩))
  · exact .inl ⟨h0, by simp [dmcSampleEnd, h0]⟩

theorem dmcSampleEnd_sameLatches (c : Dmc) : c.SameLatches (dmcSampleEnd c) := by
  rcases dmcSampleEnd_cases c with ⟨-, h⟩ | ⟨-, -, h⟩ | ⟨-, -, -, h⟩ | ⟨-, -, -, h⟩ <;> rw [h] <;>
    exact ⟨rfl, rfl, rfl, rfl, rfl, rfl, rfl⟩

theorem dmcRefill_sameLatches (b : Byte) (c : Dmc) : c.SameLatches (dmcRefill b c) := by
  unfold dmcRefill
  refine Dmc.SameLatches.trans ?_ (dmcSampleEnd_sameLatches _)
  exact ⟨rfl, rfl, rfl, rfl, rfl, rfl, rfl⟩

/-- Everything a fetch does: the environment's answer into the DMC, the answer used up, the address handed out. -/
theorem dmcFetch_cases (s : State) : ∃ b,
    (∀ x xs, s.mapper.answers = x :: xs → b = x)
    ∧ dmcFetch s = ((s.setDmc (dmcRefill b s.dmc)).setMapper
        { answers := s.mapper.answers.tail, fetchCount := s.mapper.fetchCount + 1 }).setTrace
          (s.trace ++ [.fetch s.dmc.sampleAddress]) := by
  refine ⟨_, ?_, rfl⟩
  intro x xs h
  simp only [memRead, h]

/-- A bit clock consumes, and then fetches when the buffer is empty and bytes remain (R218). -/
theorem dmcClock_cases (s : State) :
    (¬ ((dmcConsume s.dmc).bitsRemaining = 0 ∧ 0 < s.dmc.bytesRemaining)
      ∧ dmcClock s = s.setDmc (dmcConsume s.dmc))
    ∨ (((dmcConsume s.dmc).bitsRemaining = 0 ∧ 0 < s.dmc.bytesRemaining)
      ∧ dmcClock s = dmcFetch (s.setDmc (dmcConsume s.dmc))) := by
  have hb := (dmcConsume_keeps s.dmc).2.1
  by_cases h : (dmcConsume s.dmc).bitsRemaining = 0 ∧ 0 < s.dmc.bytesRemaining
  · exact .inr ⟨h, by simp [dmcClock, hb, h]⟩
  · exact .inl ⟨h, by simp only [dmcClock, State.setDmc_dmc, hb, if_neg h]⟩

/-- The spec's loop of k bit clocks is the k-fold iterate of one. -/
theorem dmcClocks_eq_iterate (k : Nat) (s : State) : dmcClocks k s = dmcClock^[k] s := by
  induction k generalizing s with
  | zero => rfl
  | succ k ih => rw [Function.iterate_succ_apply]; exact ih _

/-- A property of states that every bit clock keeps is kept by k of them. -/
theorem dmcClocks_induction {P : State → Prop} (h : ∀ s, P s → P (dmcClock s)) (k : Nat) (s : State) (hs : P s) :
    P (dmcClocks k s) := by
  induction k generalizing s with
  | zero => exact hs
  | succ k ih => exact ih _ (h _ hs)

/-- What a bit clock leaves alone: everything but the DMC, the fetch port and what is handed out. -/
theorem dmcClock_frame (s : State) :
    dmcClock s = { s with dmc := (dmcClock s).dmc, mapper := (dmcClock s).mapper, trace := (dmcClock s).trace } := by
  rcases dmcClock_cases s with ⟨-, h⟩ | ⟨-, h⟩
  · rw [h]; rfl
  · rw [h]; rfl

theorem dmcClock_sameLatches (s : State) : s.dmc.SameLatches (dmcClock s).dmc := by
  rcases dmcClock_cases s with ⟨-, h⟩ | ⟨-, h⟩
  · rw [h]; exact dmcConsume_sameLatches _
  · rw [h]; exact (dmcConsume_sameLatches _).trans (dmcRefill_sameLatches _ _)

@[simp] theorem dmcClock_cfg (s : State) : (dmcClock s).cfg = s.cfg := by rw [dmcClock_frame]
@[simp] theorem dmcClock_pulse1 (s : State) : (dmcClock s).pulse1 = s.pulse1 := by rw [dmcClock_frame]
@[simp] theorem dmcClock_pulse2 (s : State) : (dmcClock s).pulse2 = s.pulse2 := by rw [dmcClock_frame]
@[simp] theorem dmcClock_tri (s : State) : (dmcClock s).tri = s.tri := by rw [dmcClock_frame]
@[simp] theorem dmcClock_noise (s : State) : (dmcClock s).noise = s.noise := by rw [dmcClock_frame]
@[simp] theorem dmcClock_seqFrame (s : State) : (dmcClock s).frame = s.frame := by rw [dmcClock_frame]
@[simp] theorem dmcClock_pending (s : State) : (dmcClock s).pending = s.pending := by rw [dmcClock_frame]

/-- What k bit clocks leave alone. -/
theorem dmcClocks_frame (k : Nat) (s : State) :
    dmcClocks k s = { s with
      dmc := (dmcClocks k s).dmc, mapper := (dmcClocks k s).mapper, trace := (dmcClocks k s).trace } := by
  have h := dmcClocks_induction (P := fun t => t.cfg = s.cfg ∧ t.pulse1 = s.pulse1 ∧ t.pulse2 = s.pulse2
    ∧ t.tri = s.tri ∧ t.noise = s.noise ∧ t.frame = s.frame ∧ t.pending = s.pending) (by
      intro t h
      simpa using h) k s ⟨rfl, rfl, rfl, rfl, rfl, rfl, rfl⟩
  generalize dmcClocks k s = t at *
  obtain ⟨h1, h2, h3, h4, h5, h6, h7⟩ := h
  simp only [← h1, ← h2, ← h3, ← h4, ← h5, ← h6, ← h7]

theorem dmcClocks_sameLatches (k : Nat) (s : State) : s.dmc.SameLatches (dmcClocks k s).dmc :=
  dmcClocks_induction (P := fun t => s.dmc.SameLatches t.dmc)
    (fun t h => h.trans (dmcClock_sameLatches t)) k s (Dmc.SameLatches.refl _)

/-- What a bit clock hands out: nothing, or the sample address it fetched from. -/
theorem dmcClock_trace (s : State) :
    (dmcClock s).trace = s.trace ∨ (dmcClock s).trace = s.trace ++ [.fetch s.dmc.sampleAddress] := by
  have ha := (dmcConsume_keeps s.dmc).1
  rcases dmcClock_cases s with ⟨-, h⟩ | ⟨-, h⟩
  · exact .inl (by rw [h]; rfl)
  · obtain ⟨b, -, hf⟩ := dmcFetch_cases (s.setDmc (dmcConsume s.dmc))
    exact .inr (by rw [h, hf]; simp [ha])

end Sys2Proof.Machine
end

