-- ==== Sys2Proof/Laws/Operands.lean ====
section
/-! SUPPORT. The fields of a written byte and the periods they build, as numbers. -/

namespace Sys2Proof.Machine

/-- Bit n of a byte is set exactly when its quotient by 2^n is odd. -/
theorem getLsbD_eq_true_iff (d : Byte) (n : Nat) : d.getLsbD n = true ↔ d.toNat / 2 ^ n % 2 = 1 := by
  rw [BitVec.getLsbD, Nat.testBit_eq_decide_div_mod_eq]
  simp

/-- A field of n bits from bit a up, as a quotient and a remainder. -/
theorem toNat_field (d : Byte) (a n : Nat) : (d.extractLsb' a n).toNat = d.toNat / 2 ^ a % 2 ^ n := by
  simp [BitVec.extractLsb'_toNat, Nat.shiftRight_eq_div_pow]

/-- The period after a low-register write, as a number (R100(a)). -/
theorem withPeriodLow_toNat (p : BitVec 11) (d : Byte) :
    (withPeriodLow p d).toNat = p.toNat / 256 * 256 + d.toNat := by
  have h : (withPeriodLow p d).toNat = (p.extractLsb' 8 3).toNat <<< 8 ||| d.toNat := by
    simp only [withPeriodLow, BitVec.toNat_append]
  have := p.isLt
  rw [h, ← Nat.shiftLeft_add_eq_or_of_lt d.isLt, Nat.shiftLeft_eq, BitVec.extractLsb'_toNat, Nat.shiftRight_eq_div_pow]
  omega

/-- The period after a high-register write, as a number (R100(a)). -/
theorem withPeriodHigh_toNat (p : BitVec 11) (d : Byte) :
    (withPeriodHigh p d).toNat = d.toNat % 8 * 256 + p.toNat % 256 := by
  have h : (withPeriodHigh p d).toNat = (d.extractLsb' 0 3).toNat <<< 8 ||| (p.extractLsb' 0 8).toNat := by
    simp only [withPeriodHigh, BitVec.toNat_append]
  rw [h, ← Nat.shiftLeft_add_eq_or_of_lt (BitVec.isLt _), Nat.shiftLeft_eq, BitVec.extractLsb'_toNat,
    BitVec.extractLsb'_toNat]
  simp

theorem lengthIndexField_toNat (d : Byte) : (lengthIndexField d).toNat = d.toNat / 8 := by
  have := d.isLt
  rw [lengthIndexField, toNat_field]
  omega

theorem volumeField_toNat (d : Byte) : (volumeField d).toNat = d.toNat % 16 := by
  rw [volumeField, toNat_field]
  omega

theorem levelField_eq (d : Byte) : levelField d = d.toNat % 128 := by
  rw [levelField, toNat_field]
  omega

/-- The value a Reset loads is the table's entry at the index in bits 7:3 of the written byte (R101). -/
theorem lengthTable_lookup (cfg : Config) (d : Byte) :
    cfg.lengthTable[d.toNat / 8]? = some (lengthLoad cfg (lengthIndexField d)) := by
  have := d.isLt
  have h : d.toNat / 8 < 32 := by omega
  rw [Vector.getElem?_eq_getElem h, lengthLoad]
  congr 1
  simp only [lengthIndexField_toNat]

end Sys2Proof.Machine
end

