-- ==== Sys2Proof/Laws/Words.lean ====
section
/-! SUPPORT. The fields of the words the encoder builds, and the decoder on a word given by its fields. -/

namespace Sys2Proof

@[simp] theorem kindOf_opWord (k : BitVec 3) (a : Addr) (d : Byte) : kindOf (opWord k a d) = k := by
  ext i hi
  simp only [kindOf, opWord, BitVec.getElem_extractLsb', BitVec.getLsbD_append]
  have h1 : ¬ 24 + i < 8 := by omega
  have h2 : ¬ 24 + i - 8 < 16 := by omega
  have h3 : 24 + i - 8 - 16 = i := by omega
  simp [h1, h2, h3, hi]

@[simp] theorem addrOf_opWord (k : BitVec 3) (a : Addr) (d : Byte) : addrOf (opWord k a d) = a := by
  ext i hi
  simp only [addrOf, opWord, BitVec.getElem_extractLsb', BitVec.getLsbD_append]
  have h1 : ¬ 8 + i < 8 := by omega
  have h2 : 8 + i - 8 = i := by omega
  simp [h2, hi]

@[simp] theorem dataOf_opWord (k : BitVec 3) (a : Addr) (d : Byte) : dataOf (opWord k a d) = d := by
  ext i hi
  simp only [dataOf, opWord, BitVec.getElem_extractLsb', BitVec.getLsbD_append]
  simp [hi]

@[simp] theorem kindOf_tickWord (n : BitVec 24) : kindOf (tickWord n) = 2#3 := by
  ext i hi
  simp only [kindOf, tickWord, BitVec.getElem_extractLsb', BitVec.getLsbD_append]
  have h1 : ¬ 24 + i < 24 := by omega
  have h2 : 24 + i - 24 = i := by omega
  simp [h2, hi]

@[simp] theorem countOf_tickWord (n : BitVec 24) : countOf (tickWord n) = n := by
  ext i hi
  simp only [countOf, tickWord, BitVec.getElem_extractLsb', BitVec.getLsbD_append]
  simp [hi]

/-- The bits of a word built from its fields. -/
theorem getLsbD_opWord (k : BitVec 3) (a : Addr) (d : Byte) (i : Nat) :
    (opWord k a d).getLsbD i
      = if i < 8 then d.getLsbD i else if i - 8 < 16 then a.getLsbD (i - 8) else k.getLsbD (i - 8 - 16) := by
  simp only [opWord, BitVec.getLsbD_append]

theorem getLsbD_tickWord (n : BitVec 24) (i : Nat) :
    (tickWord n).getLsbD i = if i < 24 then n.getLsbD i else (2#3).getLsbD (i - 24) := by
  simp only [tickWord, BitVec.getLsbD_append]

/-- The number of a word built from its fields. -/
theorem opWord_toNat (k : BitVec 3) (a : Addr) (d : Byte) :
    (opWord k a d).toNat = k.toNat * 2 ^ 24 + a.toNat * 2 ^ 8 + d.toNat := by
  have ha := a.isLt
  have hd := d.isLt
  have h : (opWord k a d).toNat = (k.toNat <<< 16 ||| a.toNat) <<< 8 ||| d.toNat := by
    simp only [opWord, BitVec.toNat_append]
  rw [h, ← Nat.shiftLeft_add_eq_or_of_lt hd, ← Nat.shiftLeft_add_eq_or_of_lt ha, Nat.shiftLeft_eq, Nat.shiftLeft_eq]
  omega

theorem tickWord_toNat (n : BitVec 24) : (tickWord n).toNat = 2 ^ 25 + n.toNat := by
  have h : (tickWord n).toNat = 2 <<< 24 ||| n.toNat := by
    simp only [tickWord, BitVec.toNat_append]
    rfl
  rw [h, ← Nat.shiftLeft_add_eq_or_of_lt n.isLt, Nat.shiftLeft_eq]
  omega

/-- A word's number, from its fields. -/
theorem kindOf_toNat (w : OpWord) : (kindOf w).toNat = w.toNat / 2 ^ 24 := by
  have := w.isLt
  simp only [kindOf, BitVec.extractLsb'_toNat, Nat.shiftRight_eq_div_pow]
  omega

theorem addrOf_toNat (w : OpWord) : (addrOf w).toNat = w.toNat / 256 % 2 ^ 16 := by
  simp only [addrOf, BitVec.extractLsb'_toNat, Nat.shiftRight_eq_div_pow]

theorem dataOf_toNat (w : OpWord) : (dataOf w).toNat = w.toNat % 256 := by
  simp only [dataOf, BitVec.extractLsb'_toNat, Nat.shiftRight_eq_div_pow]
  omega

theorem countOf_toNat (w : OpWord) : (countOf w).toNat = w.toNat % 2 ^ 24 := by
  simp only [countOf, BitVec.extractLsb'_toNat, Nat.shiftRight_eq_div_pow]
  omega

/-- A word is the one its three fields build. -/
theorem opWord_fields (w : OpWord) : opWord (kindOf w) (addrOf w) (dataOf w) = w := by
  apply BitVec.eq_of_toNat_eq
  have := w.isLt
  rw [opWord_toNat, kindOf_toNat, addrOf_toNat, dataOf_toNat]
  omega

/-- A word of kind 2 is the TK word of its count. -/
theorem tickWord_fields (w : OpWord) (h : kindOf w = 2#3) : tickWord (countOf w) = w := by
  apply BitVec.eq_of_toNat_eq
  have hk := congrArg BitVec.toNat h
  have := w.isLt
  rw [kindOf_toNat] at hk
  rw [tickWord_toNat, countOf_toNat]
  simp at hk
  omega

/-- The mask of the rows that fix kind and address keeps these two fields. -/
theorem opWord_and_mask (k : BitVec 3) (a : Addr) (d : Byte) :
    opWord k a d &&& 0x7FFFF00#27 = opWord k a 0#8 := by
  have hm : ∀ i : Fin 27, (0x7FFFF00#27 : OpWord).getLsbD i = decide (8 ≤ i.val) := by decide
  apply BitVec.eq_of_getLsbD_eq
  intro i hi
  have hmi := hm ⟨i, hi⟩
  simp only at hmi
  rw [BitVec.getLsbD_and, hmi, getLsbD_opWord, getLsbD_opWord]
  by_cases h8 : i < 8
  · simp [h8, Nat.not_le.mpr h8]
  · simp [h8, Nat.not_lt.mp h8]

/-- The mask of the TICK row keeps the kind. -/
theorem tickWord_and_mask (n : BitVec 24) : tickWord n &&& 0x7000000#27 = 0x2000000#27 := by
  have hm : ∀ i : Fin 27, (0x7000000#27 : OpWord).getLsbD i = decide (24 ≤ i.val)
      ∧ (0x2000000#27 : OpWord).getLsbD i = (decide (24 ≤ i.val) && (2#3).getLsbD (i.val - 24)) := by decide
  apply BitVec.eq_of_getLsbD_eq
  intro i hi
  obtain ⟨h1, h2⟩ := hm ⟨i, hi⟩
  simp only at h1 h2
  rw [BitVec.getLsbD_and, h1, h2, getLsbD_tickWord]
  by_cases h : i < 24
  · simp [h, Nat.not_le.mpr h]
  · simp [h, Nat.not_lt.mp h]

/-- The decoder on a WR word. -/
theorem decode_write (a : Addr) (d : Byte) : decode (opWord 1#3 a d) = decodeWrite a d := by
  simp [decode]

/-- The decoder on an RD word: the byte is ignored. -/
theorem decode_read (a : Addr) (d : Byte) : decode (opWord 0#3 a d) = decodeRead a := by
  simp [decode]

/-- The decoder on an SM word. -/
theorem decode_sample (a : Addr) (d : Byte) : decode (opWord 3#3 a d) = decodeSample a d := by
  simp [decode]

/-- The decoder on a TK word. -/
theorem decode_tick (n : BitVec 24) : decode (tickWord n) = .ok (.tick n.toNat) := by
  simp [decode]

end Sys2Proof
end

