-- ==== Sys2Proof/Laws/PerInstr.lean ====
section
/-! SUPPORT. The per-instruction family TableRow: an operation's word matches its row of the operation table. -/

namespace Sys2Proof.Laws.TableRow

/-- The word of an operation, under the mask of its row, is the match of its row. -/
def Statement (i : Instr) : Prop := encode i &&& (tableRow i).2 = (tableRow i).1

theorem w4000 (d : Byte) : Statement (.w4000 d) := (opWord_and_mask _ _ d).trans rfl
theorem w4001 (d : Byte) : Statement (.w4001 d) := (opWord_and_mask _ _ d).trans rfl
theorem w4002 (d : Byte) : Statement (.w4002 d) := (opWord_and_mask _ _ d).trans rfl
theorem w4003 (d : Byte) : Statement (.w4003 d) := (opWord_and_mask _ _ d).trans rfl
theorem w4004 (d : Byte) : Statement (.w4004 d) := (opWord_and_mask _ _ d).trans rfl
theorem w4005 (d : Byte) : Statement (.w4005 d) := (opWord_and_mask _ _ d).trans rfl
theorem w4006 (d : Byte) : Statement (.w4006 d) := (opWord_and_mask _ _ d).trans rfl
theorem w4007 (d : Byte) : Statement (.w4007 d) := (opWord_and_mask _ _ d).trans rfl
theorem w4008 (d : Byte) : Statement (.w4008 d) := (opWord_and_mask _ _ d).trans rfl
theorem w4009 (d : Byte) : Statement (.w4009 d) := (opWord_and_mask _ _ d).trans rfl
theorem w400A (d : Byte) : Statement (.w400A d) := (opWord_and_mask _ _ d).trans rfl
theorem w400B (d : Byte) : Statement (.w400B d) := (opWord_and_mask _ _ d).trans rfl
theorem w400C (d : Byte) : Statement (.w400C d) := (opWord_and_mask _ _ d).trans rfl
theorem w400D (d : Byte) : Statement (.w400D d) := (opWord_and_mask _ _ d).trans rfl
theorem w400E (d : Byte) : Statement (.w400E d) := (opWord_and_mask _ _ d).trans rfl
theorem w400F (d : Byte) : Statement (.w400F d) := (opWord_and_mask _ _ d).trans rfl
theorem w4010 (d : Byte) : Statement (.w4010 d) := (opWord_and_mask _ _ d).trans rfl
theorem w4011 (d : Byte) : Statement (.w4011 d) := (opWord_and_mask _ _ d).trans rfl
theorem w4012 (d : Byte) : Statement (.w4012 d) := (opWord_and_mask _ _ d).trans rfl
theorem w4013 (d : Byte) : Statement (.w4013 d) := (opWord_and_mask _ _ d).trans rfl
theorem w4014 (d : Byte) : Statement (.w4014 d) := (opWord_and_mask _ _ d).trans rfl
theorem w4015 (d : Byte) : Statement (.w4015 d) := (opWord_and_mask _ _ d).trans rfl
theorem w4016 (d : Byte) : Statement (.w4016 d) := (opWord_and_mask _ _ d).trans rfl
theorem w4017 (d : Byte) : Statement (.w4017 d) := (opWord_and_mask _ _ d).trans rfl
theorem rd4015 : Statement .rd4015 := by unfold Statement; decide
theorem tick (n : Nat) : Statement (.tick n) := tickWord_and_mask _
theorem sampleP1 : Statement .sampleP1 := by unfold Statement; decide
theorem sampleP2 : Statement .sampleP2 := by unfold Statement; decide
theorem sampleTri : Statement .sampleTri := by unfold Statement; decide
theorem sampleNoi : Statement .sampleNoi := by unfold Statement; decide
theorem sampleDmc : Statement .sampleDmc := by unfold Statement; decide

end Sys2Proof.Laws.TableRow
end

