-- ==== Sys2Proof/Laws/Sequencer.lean ====
section
/-! SUPPORT. What a quarter tick, a half tick, a frame step and TICK can do. TICK's loop is given once, as the iterate of
the frame step with the accumulator reduced (`tickCycles_eq`). -/

namespace Sys2Proof.Machine

@[simp] theorem quarter_cfg (s : State) : (quarter s).cfg = s.cfg := rfl
@[simp] theorem quarter_dmc (s : State) : (quarter s).dmc = s.dmc := rfl
@[simp] theorem quarter_frame (s : State) : (quarter s).frame = s.frame := rfl
@[simp] theorem quarter_mapper (s : State) : (quarter s).mapper = s.mapper := rfl
@[simp] theorem quarter_pending (s : State) : (quarter s).pending = s.pending := rfl
@[simp] theorem quarter_trace (s : State) : (quarter s).trace = s.trace := rfl
@[simp] theorem half_cfg (s : State) : (half s).cfg = s.cfg := rfl
@[simp] theorem half_dmc (s : State) : (half s).dmc = s.dmc := rfl
@[simp] theorem half_frame (s : State) : (half s).frame = s.frame := rfl
@[simp] theorem half_mapper (s : State) : (half s).mapper = s.mapper := rfl
@[simp] theorem half_pending (s : State) : (half s).pending = s.pending := rfl
@[simp] theorem half_trace (s : State) : (half s).trace = s.trace := rfl

/-- Quarter and half ticks do not see the frame sequencer. -/
theorem quarter_setFrame (s : State) (f : FrameSequencer) : quarter (s.setFrame f) = (quarter s).setFrame f := rfl
theorem half_setFrame (s : State) (f : FrameSequencer) : half (s.setFrame f) = (half s).setFrame f := rfl

/-- The frame record after a frame step (R181, R185). -/
def frameAfterStep (f : FrameSequencer) : FrameSequencer :=
  match f.mode with
  | .fourStep =>
    if 3 ≤ f.step then { f with step := 0, irqFlag := f.irqFlag || !f.irqInhibit } else { f with step := f.step + 1 }
  | .fiveStep => if 4 ≤ f.step then { f with step := 0 } else { f with step := f.step + 1 }

/-- The work on the units in a frame step: the step about to be fired is `step + 1` (R181). -/
def unitsAfterStep (s : State) : State :=
  match s.frame.mode with
  | .fourStep => if s.frame.step + 1 = 2 ∨ s.frame.step + 1 = 4 then half (quarter s) else quarter s
  | .fiveStep =>
    if 4 ≤ s.frame.step then s
    else if s.frame.step = 0 ∨ s.frame.step = 2 then half (quarter s) else quarter s

/-- Everything a frame step can do: the work on the units, and the frame record. -/
theorem frameStep_eq (s : State) : frameStep s = (unitsAfterStep s).setFrame (frameAfterStep s.frame) := by
  cases hm : s.frame.mode with
  | fourStep =>
    simp only [frameStep, fourStepWork, unitsAfterStep, frameAfterStep, hm, State.setFrame_frame, FrameSequencer.requestIrq,
      quarter_setFrame]
    by_cases h2 : s.frame.step + 1 = 2 ∨ s.frame.step + 1 = 4
    · simp only [if_pos h2]
      by_cases h4 : 3 ≤ s.frame.step
      · cases s.frame.irqInhibit <;> simp [h4, half_setFrame]
      · have : ¬ 4 ≤ s.frame.step + 1 := by omega
        simp [h4, half_setFrame]
    · simp only [if_neg h2]
      by_cases h4 : 3 ≤ s.frame.step
      · cases s.frame.irqInhibit <;> simp [h4]
      · have : ¬ 4 ≤ s.frame.step + 1 := by omega
        simp [h4]
  | fiveStep =>
    simp only [frameStep, fiveStepWork, unitsAfterStep, frameAfterStep, hm, State.setFrame_frame]
    by_cases h5 : 4 ≤ s.frame.step
    · have h1 : ¬ s.frame.step + 1 ≤ 4 := by omega
      have h2 : ¬ (s.frame.step + 1 = 1 ∨ s.frame.step + 1 = 3) := by omega
      have h3 : 5 ≤ s.frame.step + 1 := by omega
      simp only [if_neg h1, if_neg h2, if_pos h3, if_pos h5, State.setFrame_frame, State.setFrame_setFrame]
    · have h1 : s.frame.step + 1 ≤ 4 := by omega
      have h3 : ¬ 5 ≤ s.frame.step + 1 := by omega
      simp only [if_pos h1, if_neg h3, if_neg h5]
      by_cases h2 : s.frame.step = 0 ∨ s.frame.step = 2
      · have h2' : s.frame.step + 1 = 1 ∨ s.frame.step + 1 = 3 := by omega
        simp only [if_pos h2', if_pos h2, quarter_setFrame, half_setFrame]
      · have h2' : ¬ (s.frame.step + 1 = 1 ∨ s.frame.step + 1 = 3) := by omega
        simp only [if_neg h2', if_neg h2, quarter_setFrame]

/-- The units after a frame step: untouched, quarter-ticked, or quarter- and half-ticked. -/
theorem unitsAfterStep_cases (s : State) :
    unitsAfterStep s = s ∨ unitsAfterStep s = quarter s ∨ unitsAfterStep s = half (quarter s) := by
  simp only [unitsAfterStep]
  split
  · split <;> simp
  · split
    · simp
    · split <;> simp

/-- A frame step changes the units as `unitsAfterStep_cases` says and the frame record as `frameAfterStep` says. -/
theorem frameStep_cases (s : State) :
    frameStep s = s.setFrame (frameAfterStep s.frame)
    ∨ frameStep s = (quarter s).setFrame (frameAfterStep s.frame)
    ∨ frameStep s = (half (quarter s)).setFrame (frameAfterStep s.frame) := by
  rw [frameStep_eq]
  rcases unitsAfterStep_cases s with h | h | h <;> rw [h] <;> simp

@[simp] theorem frameStep_frame (s : State) : (frameStep s).frame = frameAfterStep s.frame := by
  rw [frameStep_eq, State.setFrame_frame]
@[simp] theorem frameStep_cfg (s : State) : (frameStep s).cfg = s.cfg := by
  rcases frameStep_cases s with h | h | h <;> rw [h] <;> rfl
@[simp] theorem frameStep_dmc (s : State) : (frameStep s).dmc = s.dmc := by
  rcases frameStep_cases s with h | h | h <;> rw [h] <;> rfl
@[simp] theorem frameStep_mapper (s : State) : (frameStep s).mapper = s.mapper := by
  rcases frameStep_cases s with h | h | h <;> rw [h] <;> rfl
@[simp] theorem frameStep_pending (s : State) : (frameStep s).pending = s.pending := by
  rcases frameStep_cases s with h | h | h <;> rw [h] <;> rfl
@[simp] theorem frameStep_trace (s : State) : (frameStep s).trace = s.trace := by
  rcases frameStep_cases s with h | h | h <;> rw [h] <;> rfl

@[simp] theorem frameAfterStep_mode (f : FrameSequencer) : (frameAfterStep f).mode = f.mode := by
  simp only [frameAfterStep]
  split <;> split <;> rfl
@[simp] theorem frameAfterStep_irqInhibit (f : FrameSequencer) : (frameAfterStep f).irqInhibit = f.irqInhibit := by
  simp only [frameAfterStep]
  split <;> split <;> rfl
@[simp] theorem frameAfterStep_cycleAccumulator (f : FrameSequencer) :
    (frameAfterStep f).cycleAccumulator = f.cycleAccumulator := by
  simp only [frameAfterStep]
  split <;> split <;> rfl

/-- A frame step leaves the mode and the inhibit. -/
theorem frameAfterStep_eq (f : FrameSequencer) :
    frameAfterStep f = { f with step := (frameAfterStep f).step, irqFlag := (frameAfterStep f).irqFlag } := by
  obtain ⟨a, n, m, i, q⟩ := f
  cases m <;> simp only [frameAfterStep] <;> split <;> rfl

/-- The state with its cycle accumulator replaced. -/
def State.setAccumulator (a : Nat) (s : State) : State := s.setFrame { s.frame with cycleAccumulator := a }

@[simp] theorem State.setAccumulator_frame (a : Nat) (s : State) :
    (s.setAccumulator a).frame = { s.frame with cycleAccumulator := a } := rfl
@[simp] theorem State.setAccumulator_setAccumulator (a b : Nat) (s : State) :
    (s.setAccumulator a).setAccumulator b = s.setAccumulator b := rfl
@[simp] theorem State.setAccumulator_self (s : State) : s.setAccumulator s.frame.cycleAccumulator = s := rfl

/-- A frame step does not see the accumulator. -/
theorem frameStep_setAccumulator (a : Nat) (s : State) :
    frameStep (s.setAccumulator a) = (frameStep s).setAccumulator a := by
  have hf : frameAfterStep (s.setAccumulator a).frame = { frameAfterStep s.frame with cycleAccumulator := a } := by
    simp only [frameAfterStep, State.setAccumulator_frame]
    split <;> split <;> simp [*]
  have hu : unitsAfterStep (s.setAccumulator a) = (unitsAfterStep s).setAccumulator a := by
    simp only [unitsAfterStep, State.setAccumulator_frame]
    cases s.frame.mode with
    | fourStep => simp only [apply_ite (State.setAccumulator a)]; rfl
    | fiveStep => simp only [apply_ite (State.setAccumulator a)]; rfl
  rw [frameStep_eq, frameStep_eq, hf, hu]
  rfl

theorem iterate_frameStep_setAccumulator (k a : Nat) (s : State) :
    frameStep^[k] (s.setAccumulator a) = (frameStep^[k] s).setAccumulator a := by
  induction k generalizing s with
  | zero => rfl
  | succ k ih => rw [Function.iterate_succ_apply, Function.iterate_succ_apply, frameStep_setAccumulator, ih]

@[simp] theorem iterate_frameStep_cycleAccumulator (k : Nat) (s : State) :
    (frameStep^[k] s).frame.cycleAccumulator = s.frame.cycleAccumulator := by
  induction k generalizing s with
  | zero => rfl
  | succ k ih => rw [Function.iterate_succ_apply, ih]; simp

/-- The loop of TICK on an accumulator of k whole intervals and a rest fires k steps and leaves the rest (R180). -/
theorem frameLoop_eq (k rest : Nat) (s : State) (h : s.frame.cycleAccumulator = k * 7457 + rest) :
    frameLoop k s = (frameStep^[k] s).setAccumulator rest := by
  induction k generalizing s with
  | zero =>
    have h' : s.frame.cycleAccumulator = rest := by omega
    simp [frameLoop, ← h']
  | succ k ih =>
    have hge : frameStepCycles ≤ s.frame.cycleAccumulator := by
      simp only [frameStepCycles]
      omega
    rw [frameLoop, if_pos hge]
    change frameLoop k (frameStep (s.setAccumulator (s.frame.cycleAccumulator - frameStepCycles))) = _
    rw [frameStep_setAccumulator, ih, iterate_frameStep_setAccumulator, State.setAccumulator_setAccumulator,
      Function.iterate_succ_apply]
    simp only [State.setAccumulator_frame, frameStepCycles]
    omega

/-- Everything TICK(n) does: one frame step for each whole interval, and the rest left in the accumulator (R180). -/
theorem tickCycles_eq (n : Nat) (s : State) :
    tickCycles n s = (frameStep^[(s.frame.cycleAccumulator + n) / 7457] s).setAccumulator
      ((s.frame.cycleAccumulator + n) % 7457) := by
  have h := frameLoop_eq ((s.frame.cycleAccumulator + n) / 7457) ((s.frame.cycleAccumulator + n) % 7457)
    (s.setAccumulator (s.frame.cycleAccumulator + n)) (by
      simp only [State.setAccumulator_frame]
      omega)
  rw [iterate_frameStep_setAccumulator, State.setAccumulator_setAccumulator] at h
  exact h

/-- A property of states that every frame step keeps and that does not look at the accumulator is kept by TICK. -/
theorem tickCycles_induction {P : State → Prop} (hstep : ∀ s, P s → P (frameStep s))
    (hacc : ∀ a s, P s → P (s.setAccumulator a)) (n : Nat) (s : State) (h : P s) : P (tickCycles n s) := by
  rw [tickCycles_eq]
  refine hacc _ _ ?_
  generalize (s.frame.cycleAccumulator + n) / 7457 = k
  induction k generalizing s with
  | zero => exact h
  | succ k ih => rw [Function.iterate_succ_apply]; exact ih _ (hstep _ h)

end Sys2Proof.Machine
end

