-- ==== Sys2Proof/Laws/Step.lean ====
section
/-! SUPPORT. The step in its three forms, what TICK leaves alone, and that no meaning looks at what is still issued. -/

namespace Sys2Proof.Machine

theorem step_word {s : State} {w : OpWord} {rest : List Request} {i : Instr} (h : s.pending = .word w :: rest)
    (hd : decode w = .ok i) : step s = exec i (s.setPending rest) := by
  simp only [step, h, Request.operation, hd]

theorem step_tick {s : State} {n : Nat} {rest : List Request} (h : s.pending = .tick n :: rest) :
    step s = exec (.tick n) (s.setPending rest) := by
  simp only [step, h, Request.operation]

theorem step_refused {s : State} {w : OpWord} {rest : List Request} {e : DecodeError}
    (h : s.pending = .word w :: rest) (hd : decode w = .error e) : step s = .refused (refusalOf e) := by
  simp only [step, h, Request.operation, hd]

theorem step_idle {s : State} (h : s.pending = []) : step s = .next s := by
  simp only [step, h]

/-- Everything a step that answers a next state can do. -/
theorem step_next_cases {s t : State} (h : step s = .next t) :
    t = s ∨ ∃ i rest, exec i (s.setPending rest) = .next t := by
  unfold step at h
  split at h
  · cases h
    exact .inl rfl
  · split at h
    · exact .inr ⟨_, _, h⟩
    · cases h

/-- A run of one step more, from a state whose step answers a next state. -/
theorem run_succ_of_next {M : Host.Core} {k : Nat} {s t : M.State} (h : M.step s = .next t) :
    M.run (k + 1) s = M.run k t := by
  simp only [Host.Core.run, h]

/-- What TICK leaves alone outside the units it ticks. -/
theorem tickCycles_keeps (n : Nat) (s : State) :
    (tickCycles n s).cfg = s.cfg ∧ (tickCycles n s).pending = s.pending ∧ (tickCycles n s).trace = s.trace
    ∧ (tickCycles n s).dmc = s.dmc ∧ (tickCycles n s).mapper = s.mapper :=
  tickCycles_induction (P := fun t => t.cfg = s.cfg ∧ t.pending = s.pending ∧ t.trace = s.trace ∧ t.dmc = s.dmc
    ∧ t.mapper = s.mapper) (fun t h => by simpa using h) (fun _ _ h => h) n s ⟨rfl, rfl, rfl, rfl, rfl⟩

/-! ## What is still issued is not seen -/

theorem frameStep_setPending (p : List Request) (s : State) :
    frameStep (s.setPending p) = (frameStep s).setPending p := by
  have hu : unitsAfterStep (s.setPending p) = (unitsAfterStep s).setPending p := by
    simp only [unitsAfterStep, State.setPending_frame]
    cases s.frame.mode with
    | fourStep => simp only [apply_ite (State.setPending · p)]; rfl
    | fiveStep => simp only [apply_ite (State.setPending · p)]; rfl
  rw [frameStep_eq, frameStep_eq, hu]
  rfl

theorem tickCycles_setPending (n : Nat) (p : List Request) (s : State) :
    tickCycles n (s.setPending p) = (tickCycles n s).setPending p := by
  have h : ∀ k t, frameStep^[k] (State.setPending t p) = (frameStep^[k] t).setPending p := by
    intro k
    induction k with
    | zero => intro t; rfl
    | succ k ih =>
      intro t
      rw [Function.iterate_succ_apply, Function.iterate_succ_apply, frameStep_setPending, ih]
  rw [tickCycles_eq, tickCycles_eq, State.setPending_frame, h]
  rfl

theorem dmcClock_setPending (p : List Request) (s : State) :
    dmcClock (s.setPending p) = (dmcClock s).setPending p := by
  simp only [dmcClock, apply_ite (State.setPending · p)]
  rfl

theorem dmcClocks_setPending (k : Nat) (p : List Request) (s : State) :
    dmcClocks k (s.setPending p) = (dmcClocks k s).setPending p := by
  induction k generalizing s with
  | zero => rfl
  | succ k ih =>
    simp only [dmcClocks]
    rw [dmcClock_setPending, ih]

/-- SAMPLE.DMC without its let-bindings: the phase, the bit clocks while enabled, the value handed out (R217). -/
theorem execSampleDmc_eq (s : State) :
    execSampleDmc s = .next
      (let adv := phaseAdvance s.cfg s.dmc.phase (dmcFrequency s.cfg s.dmc)
       let t := dmcClocks (if s.dmc.enabled then adv.2 else 0) (s.setDmc { s.dmc with phase := adv.1 })
       t.emit (.sample .dmc (dmcOutput t.dmc))) := by
  cases h : s.dmc.enabled <;> simp only [execSampleDmc, State.setDmc_dmc, h] <;> rfl

/-- No meaning looks at the operations still issued, and none changes them. -/
theorem exec_setPending (i : Instr) (p : List Request) (s : State) :
    ∃ t, exec i s = .next t ∧ exec i (s.setPending p) = .next (t.setPending p) := by
  cases i
  case tick n => exact ⟨_, rfl, by simp only [exec, execTick, tickCycles_setPending]⟩
  case sampleDmc =>
    refine ⟨_, execSampleDmc_eq s, ?_⟩
    simp only [exec, execSampleDmc_eq, State.setPending_cfg, State.setPending_dmc]
    have h : ∀ x, (s.setPending p).setDmc x = (s.setDmc x).setPending p := fun _ => rfl
    simp only [h, dmcClocks_setPending]
    rfl
  all_goals exact ⟨_, rfl, rfl⟩

end Sys2Proof.Machine
end

