-- ==== Sys2Proof/Tests/Slice0.lean ====
section
/-! SUPPORT. The model's own tests. Expected values come from the spec's vectors (spec/95_test_vectors.md V1 to V31 and
spec/30_encoding.md), words from R80 and the operation table. Then one witness for each hypothesis of the statements. -/

namespace Sys2Proof.Tests

open Sys2Proof.Machine

/-! ## Helpers -/

/-- The power-on state with a given sample rate and given answers of the Mapper. -/
def ready (fs : Rat) (answers : List Byte := []) : State :=
  { State.reset with cfg := { defaultConfig with fs := fs }, mapper := { answers := answers, fetchCount := 0 } }

/-- What `look` reads in the state after an operation, if there is one. -/
def after {α : Type} (i : Instr) (s : State) (look : State → α) : Option α :=
  match exec i s with
  | .next t => some (look t)
  | _ => none

/-- The same for a step. -/
def afterStep {α : Type} (s : State) (look : State → α) : Option α :=
  match step s with
  | .next t => some (look t)
  | _ => none

/-- Why a step refuses, if it does. -/
def refusal (s : State) : Option Refusal :=
  match step s with
  | .refused r => some r
  | _ => none

/-- Why a word decodes to nothing, if so. -/
def reject (w : OpWord) : Option DecodeError :=
  match decode w with
  | .ok _ => none
  | .error e => some e

/-! ## Well-formedness -/

theorem test_wellFormed_refuses_a_count_of_25_bits : (Instr.tick (2 ^ 24)).wellFormed = false := by decide
theorem test_wellFormed_takes_the_largest_count : (Instr.tick (2 ^ 24 - 1)).wellFormed = true := by decide

/-! ## Decoding: each constructor's word, laid out by R80 as kind, address, data -/

/-- WR, bit by bit: kind 001, address 0100000000000000, data 10111111 (V1). -/
theorem test_decode_wr_by_bits : decode 0b001_0100000000000000_10111111#27 = .ok (.w4000 0xBF) := by decide
/-- RD, bit by bit: kind 000, address 0100000000010101, data ignored (R80). -/
theorem test_decode_rd_by_bits : decode 0b000_0100000000010101_11111111#27 = .ok .rd4015 := by decide
/-- TK, bit by bit: kind 010, n = 000000000001110100100001 (V31). -/
theorem test_decode_tk_by_bits : decode 0b010_0000000000011101_00100001#27 = .ok (.tick 7457) := by decide
/-- SM, bit by bit: kind 011, 0, 00000, channel 100 (V31). -/
theorem test_decode_sm_by_bits : decode 0b011_0000000000000000_00000_100#27 = .ok .sampleDmc := by decide

theorem test_decode_pulse_writes :
    decode 0x1400040#27 = .ok (.w4000 0x40) ∧ decode 0x1400189#27 = .ok (.w4001 0x89)
    ∧ decode 0x1400254#27 = .ok (.w4002 0x54) ∧ decode 0x140030F#27 = .ok (.w4003 0x0F)
    ∧ decode 0x14004FF#27 = .ok (.w4004 0xFF) ∧ decode 0x1400581#27 = .ok (.w4005 0x81)
    ∧ decode 0x1400654#27 = .ok (.w4006 0x54) ∧ decode 0x14007F8#27 = .ok (.w4007 0xF8) := by decide
theorem test_decode_triangle_and_noise_writes :
    decode 0x1400803#27 = .ok (.w4008 0x03) ∧ decode 0x1400A00#27 = .ok (.w400A 0x00)
    ∧ decode 0x1400B08#27 = .ok (.w400B 0x08) ∧ decode 0x1400CFA#27 = .ok (.w400C 0xFA)
    ∧ decode 0x1400EF5#27 = .ok (.w400E 0xF5) ∧ decode 0x1400F1F#27 = .ok (.w400F 0x1F) := by decide
theorem test_decode_dmc_writes :
    decode 0x140108F#27 = .ok (.w4010 0x8F) ∧ decode 0x1401140#27 = .ok (.w4011 0x40)
    ∧ decode 0x14012FF#27 = .ok (.w4012 0xFF) ∧ decode 0x1401304#27 = .ok (.w4013 0x04) := by decide
theorem test_decode_control_and_ignored :
    decode 0x1401501#27 = .ok (.w4015 0x01) ∧ decode 0x14017C0#27 = .ok (.w4017 0xC0)
    ∧ decode 0x14009FF#27 = .ok (.w4009 0xFF) ∧ decode 0x1400DFF#27 = .ok (.w400D 0xFF)
    ∧ decode 0x1401402#27 = .ok (.w4014 0x02) ∧ decode 0x1401601#27 = .ok (.w4016 0x01)
    ∧ decode 0x0401500#27 = .ok .rd4015 := by decide
theorem test_decode_tick_and_samples :
    decode 0x2000000#27 = .ok (.tick 0) ∧ decode 0x2FFFFFF#27 = .ok (.tick 16777215)
    ∧ decode 0x3000000#27 = .ok .sampleP1 ∧ decode 0x3000001#27 = .ok .sampleP2
    ∧ decode 0x3000002#27 = .ok .sampleTri ∧ decode 0x3000003#27 = .ok .sampleNoi
    ∧ decode 0x3000004#27 = .ok .sampleDmc := by decide

/-- V31 and R99(c): kinds 100 and 111, SAMPLE of channel 5, a SAMPLE word with an address. -/
theorem test_reject_reserved_words :
    reject 0x4000000#27 = some (.reservedKind 4) ∧ reject 0x7FFFFFF#27 = some (.reservedKind 7)
    ∧ reject 0x3000005#27 = some (.noSuchChannel 0 5) ∧ reject 0x3000100#27 = some (.noSuchChannel 1 0) := by decide
/-- V31 and R60: reads of other registers, and addresses next to the window. -/
theorem test_reject_addresses :
    reject 0x0400000#27 = some (.readNotStatus 0x4000) ∧ reject 0x0401700#27 = some (.readNotStatus 0x4017)
    ∧ reject 0x03FFF00#27 = some (.outsideWindow 0x3FFF) ∧ reject 0x1401800#27 = some (.outsideWindow 0x4018) := by
  decide
theorem test_table_word_with_a_bit_above_27 : decodeTableWord 32 0x8000000 = none := by decide
theorem test_table_word : decodeTableWord 32 0x14017C0 = some (.w4017 0xC0) := by decide

/-! ## Register writes -/

/-- V1. -/
theorem test_w4000 : after (.w4000 0xBF) (ready 1) (fun t =>
    (t.pulse1.duty, t.pulse1.len.halt, t.pulse1.env.loop, t.pulse1.env.constantVolume, t.pulse1.env.volume))
    = some (2, true, true, true, 15) := by decide
/-- V1. -/
theorem test_w4004 : after (.w4004 0xFF) (ready 1) (fun t =>
    (t.pulse2.duty, t.pulse2.len.halt, t.pulse2.env.volume, t.pulse1.duty)) = some (3, true, 15, 0) := by decide
/-- V2. -/
theorem test_w4001 : after (.w4001 0x7F) (ready 1) (fun t => t.pulse1.sweep)
    = some ⟨false, 7, true, 7, 1, 0⟩ := by decide
/-- V2. -/
theorem test_w4005 : after (.w4005 0x81) (ready 1) (fun t => t.pulse2.sweep)
    = some ⟨true, 0, false, 1, 1, 0⟩ := by decide
/-- V3: 0x754 becomes 0x700. -/
theorem test_w4002 : after (.w4002 0x00) ((ready 1).setPulse1 { pulseAtPowerOn with timerPeriod := 0x754 })
    (fun t => t.pulse1.timerPeriod) = some 0x700 := by decide
/-- V3: 0x054 becomes 0x754, index 1, counter 254. -/
theorem test_w4003 : after (.w4003 0x0F) ((ready 1).setPulse1 { pulseAtPowerOn with timerPeriod := 0x054 })
    (fun t => (t.pulse1.timerPeriod, t.pulse1.lengthIndex, t.pulse1.len.counter)) = some (0x754, 1, 254) := by decide
/-- V3, on pulse 2 (R119). -/
theorem test_w4006 : after (.w4006 0x54) (ready 1) (fun t => t.pulse2.timerPeriod) = some 0x054 := by decide
/-- V3, on pulse 2 (R120): index 31, counter 30. -/
theorem test_w4007 : after (.w4007 0xF8) (ready 1)
    (fun t => (t.pulse2.timerPeriod, t.pulse2.lengthIndex, t.pulse2.len.counter)) = some (0, 31, 30) := by decide
/-- V4. -/
theorem test_w4008 : after (.w4008 0xFF) (ready 1) (fun t => (t.tri.len.halt, t.tri.lin))
    = some (true, ⟨0, 127, false, true⟩) := by decide
/-- R131, R100(a). -/
theorem test_w400A : after (.w400A 0x54) ((ready 1).setTri { triangleAtPowerOn with timerPeriod := 0x700 })
    (fun t => t.tri.timerPeriod) = some 0x754 := by decide
/-- V15: after reload value 3, W400B gives counter 3 and the flag at once; index 1 loads 254. -/
theorem test_w400B : after (.w400B 0x08)
    ((ready 1).setTri { triangleAtPowerOn with lin := ⟨0, 3, false, false⟩ })
    (fun t => (t.tri.lin, t.tri.len.counter)) = some (⟨3, 3, true, false⟩, 254) := by decide
/-- V4. -/
theorem test_w400C : after (.w400C 0xFA) (ready 1)
    (fun t => (t.noise.len.halt, t.noise.env.constantVolume, t.noise.env.volume)) = some (true, true, 10) := by decide
/-- V4. -/
theorem test_w400E : after (.w400E 0xF5) (ready 1) (fun t => (t.noise.mode, t.noise.periodIndex))
    = some (.short, 5) := by decide
/-- V4. -/
theorem test_w400F : after (.w400F 0x1F) (ready 1) (fun t => (t.noise.lengthIndex, t.noise.len.counter))
    = some (3, 2) := by decide
/-- V5. -/
theorem test_w4010 : after (.w4010 0xBF) (ready 1) (fun t => (t.dmc.irqEnable, t.dmc.loopFlag, t.dmc.rateIndex))
    = some (true, false, 15) := by decide
/-- V5. -/
theorem test_w4011 : after (.w4011 0xFF) (ready 1) (fun t => t.dmc.outputLevel) = some 127 := by decide
/-- R140: the address does not move. -/
theorem test_w4012 : after (.w4012 0x40) (ready 1) (fun t => (t.dmc.startReg, t.dmc.sampleAddress))
    = some (0x40, 0xC000) := by decide
/-- V5: start 0x40, length 1 give 0xD000 and 17. -/
theorem test_w4013 : after (.w4013 0x01) ((ready 1).setDmc { dmcAtPowerOn with startReg := 0x40 })
    (fun t => (t.dmc.lengthReg, t.dmc.sampleAddress, t.dmc.bytesRemaining)) = some (1, 0xD000, 17) := by decide
/-- V31. -/
theorem test_ignored_writes : after (.w4009 0xFF) (ready 1) (fun t => (t.dmc, t.frame)) = some (dmcAtPowerOn, frameAtPowerOn)
    ∧ after (.w400D 0xFF) (ready 1) (fun t => t.frame) = some frameAtPowerOn
    ∧ after (.w4014 0x02) (ready 1) (fun t => t.frame) = some frameAtPowerOn
    ∧ after (.w4016 0x01) (ready 1) (fun t => t.frame) = some frameAtPowerOn := by decide

/-! ## Status and frame control -/

/-- V28: enabling restarts the DMC with one byte and loads nothing else. -/
theorem test_w4015_enable : after (.w4015 0x1F) (ready 1)
    (fun t => (t.dmc.bytesRemaining, t.dmc.enabled, t.pulse1.len.counter, t.pulse1.enabled))
    = some (1, true, 0, true) := by decide
/-- V28: $E0 disables. -/
theorem test_w4015_disable : after (.w4015 0xE0)
    ((ready 1).setPulse1 { pulseAtPowerOn with len := ⟨254, false⟩ }) (fun t => t.pulse1.len.counter) = some 0 := by decide

/-- The state of V27: both flags, pulse 1's counter 254, noise's 1, three DMC bytes. -/
def stateV27 : State :=
  { ready 1 with
    pulse1 := { pulseAtPowerOn with len := ⟨254, false⟩ }
    noise := { noiseAtPowerOn with len := ⟨1, false⟩ }
    dmc := { dmcAtPowerOn with irqFlag := true, bytesRemaining := 3 }
    frame := { frameAtPowerOn with irqFlag := true } }

/-- V27. -/
theorem test_rd4015_byte : after .rd4015 stateV27 (fun t => t.trace) = some [.status 0xD9] := by decide
/-- V27: the frame flag is gone, the DMC flag is not. -/
theorem test_rd4015_clears : after .rd4015 stateV27 (fun t => (t.frame.irqFlag, t.dmc.irqFlag, statusByte t))
    = some (false, true, 0x99) := by decide
/-- V5. -/
theorem test_w4017 : after (.w4017 0xC0) { ready 1 with frame := ⟨2543, 1, .fourStep, false, true⟩ } (fun t => t.frame)
    = some ⟨0, 0, .fiveStep, true, false⟩ := by decide
/-- V19: bit 6 = 0 leaves the flag. -/
theorem test_w4017_keeps_the_flag : after (.w4017 0x80) { ready 1 with frame := ⟨0, 0, .fourStep, false, true⟩ }
    (fun t => t.frame) = some ⟨0, 0, .fiveStep, false, true⟩ := by decide

/-! ## TICK and the units -/

/-- V16: one TICK 29833 from power-on. -/
theorem test_tick_four_steps : after (.tick 29833) (ready 1) (fun t => t.frame)
    = some ⟨5, 0, .fourStep, false, true⟩ := by decide
/-- V18. -/
theorem test_tick_five_steps : after (.tick 10000) { ready 1 with frame := ⟨0, 0, .fiveStep, false, false⟩ }
    (fun t => t.frame) = some ⟨2543, 1, .fiveStep, false, false⟩ := by decide
/-- V15: the linear counter. -/
theorem test_linear_counter : linearTick ⟨5, 3, true, false⟩ = ⟨3, 3, false, false⟩
    ∧ linearTick ⟨0, 3, false, false⟩ = ⟨0, 3, false, false⟩ ∧ linearTick ⟨3, 3, true, true⟩ = ⟨3, 3, true, true⟩ := by
  decide
/-- V10 to V12: the target committed, too low, too high. -/
theorem test_sweep_targets :
    (sweepTarget { pulseAtPowerOn with timerPeriod := 0x100, sweep := ⟨true, 0, false, 2, 1, 0⟩ } = 0x140)
    ∧ (sweepTarget { pulseAtPowerOn with timerPeriod := 8, sweep := ⟨true, 0, true, 1, 1, 0⟩ } = 4)
    ∧ (sweepTarget { pulseAtPowerOn with timerPeriod := 0x556, sweep := ⟨true, 0, false, 1, 1, 0⟩ } = 0x801) := by decide
/-- V12: 0x555 is committed as 0x7FF. -/
theorem test_sweep_commits : (sweepTick .zeroAfterDecrement
    { pulseAtPowerOn with timerPeriod := 0x555, sweep := ⟨true, 0, false, 1, 1, 0⟩, len := ⟨10, true⟩ }).timerPeriod
    = 0x7FF := by decide
/-- V11: muted, period kept. -/
theorem test_sweep_mutes : (fun c : Pulse => (c.timerPeriod, c.len.counter)) (sweepTick .zeroAfterDecrement
    { pulseAtPowerOn with timerPeriod := 8, sweep := ⟨true, 0, true, 1, 1, 0⟩, len := ⟨10, true⟩ }) = (8, 0) := by decide

/-! ## Synthesizers -/

/-- V29, sample 8 of the spec's run: from phase 7/8 the phase is 0, below the duty of 1/8, decay counter 15. -/
theorem test_sampleP1 : after .sampleP1 ((ready (3579545 / 340)).setPulse1
    { pulseAtPowerOn with timerPeriod := 0x054, enabled := true, phase := 7 / 8, len := ⟨254, false⟩
                          env := ⟨5, false, false, 15, 6⟩ })
    (fun t => (t.pulse1.phase, t.trace)) = some (0, [.sample .p1 1]) := by decide +kernel
/-- V29 on pulse 2, sample 1: phase 1/8 is no longer below the duty. -/
theorem test_sampleP2 : after .sampleP2 ((ready (3579545 / 340)).setPulse2
    { pulseAtPowerOn with timerPeriod := 0x054, enabled := true, len := ⟨254, false⟩, env := ⟨5, false, false, 15, 6⟩ })
    (fun t => (t.pulse2.phase, t.trace)) = some (1 / 8, [.sample .p2 (-1)]) := by decide +kernel
/-- V30, first sample: -1/2. -/
theorem test_sampleTri : after .sampleTri ((ready (3579545 / 8)).setTri
    { triangleAtPowerOn with enabled := true, len := ⟨254, false⟩, lin := ⟨127, 127, true, false⟩ })
    (fun t => (t.tri.phase, t.trace)) = some (1 / 8, [.sample .tri (-1 / 2)]) := by decide +kernel
/-- V23, first sample at FS = CPU/4: one step, state 0x4000, value 1. -/
theorem test_sampleNoi : after .sampleNoi ((ready (3579545 / 8)).setNoise
    { noiseAtPowerOn with enabled := true, len := ⟨254, true⟩, env := ⟨15, true, true, 15, 16⟩ })
    (fun t => (t.noise.lfsr, t.trace)) = some (0x4000, [.sample .noi 1]) := by decide +kernel
/-- V20 and V21: states of either mode, from 0x0001. -/
theorem test_lfsr : lfsrSteps .long 15 1 = 0x4001 ∧ lfsrSteps .long 20 1 = 0x0600 ∧ lfsrSteps .short 10 1 = 0x4020
    ∧ lfsrSteps .short 20 1 = 0x2410 := by decide +kernel
/-- V26, first sample: the fetch from 0xC000 comes before the value, the loop restarts, level 64 gives 0. -/
theorem test_sampleDmc : after .sampleDmc ((ready (3579545 / 108) [0x55]).setDmc
    { dmcAtPowerOn with loopFlag := true, rateIndex := 15, outputLevel := 64, enabled := true, bytesRemaining := 1 })
    (fun t => (t.trace, t.dmc.bytesRemaining, t.dmc.bitsRemaining)) = some ([.fetch 0xC000, .sample .dmc 0], 1, 8) := by
  decide +kernel
/-- V24: level steps. -/
theorem test_dmc_levels :
    (dmcConsume { dmcAtPowerOn with outputLevel := 125, bitBuffer := 1, bitsRemaining := 8 }).outputLevel = 126
    ∧ (dmcConsume { dmcAtPowerOn with outputLevel := 127, bitBuffer := 1, bitsRemaining := 8 }).outputLevel = 126
    ∧ (dmcConsume { dmcAtPowerOn with outputLevel := 127, bitBuffer := 0, bitsRemaining := 8 }).outputLevel = 125
    ∧ (dmcConsume { dmcAtPowerOn with outputLevel := 1, bitBuffer := 0, bitsRemaining := 8 }).outputLevel = 0 := by decide
/-- V25: the address wraps to 0x8000. -/
theorem test_dmc_fetch : (fun t : State => (t.dmc.bitBuffer, t.dmc.bitsRemaining, t.dmc.sampleAddress, t.dmc.bytesRemaining,
      t.dmc.irqFlag))
    (dmcFetch ((ready 1 [0xAA]).setDmc
      { dmcAtPowerOn with sampleAddress := 0xFFFF, bytesRemaining := 2, irqEnable := true }))
    = (0xAA, 8, 0x8000, 1, false) := by decide

/-! ## The step -/

theorem test_step_runs_the_fetched_word : afterStep (State.reset.withFetchWord 32 0x14017C0) (fun t => t.frame)
    = some ⟨0, 0, .fiveStep, true, false⟩ := by decide
theorem test_step_refuses_a_read : refusal (State.reset.withFetchWord 32 0x0400000) = some (.readNotStatus 0x4000) := by
  decide

/-! ## Witnesses: states and operands that meet the hypotheses of the statements, clause by clause -/

/-- The state with one word issued. -/
def issued (w : OpWord) : State := (ready 1).setPending [.word w]

theorem witness_StepAppliesOldestOperation_word :
    (issued 0x14017C0).pending = .word 0x14017C0 :: [] ∧ decode 0x14017C0 = .ok (.w4017 0xC0) := by decide
theorem witness_StepAppliesOldestOperation_tick :
    ((ready 1).setPending [.tick (2 ^ 24)]).pending = .tick (2 ^ 24) :: [] := by decide
theorem witness_StepAppliesOldestOperation_idle : (ready 1).pending = [] := by decide
theorem witness_StepAppliesOldestOperation_fetchWord :
    decodeTableWord 32 0x3000004 = some .sampleDmc ∧ 0x3000004 < 2 ^ 32 := by decide
theorem witness_DecodeOfEncodeIsTheOperation : (Instr.tick (2 ^ 24 - 1)).wellFormed = true := by decide
theorem witness_EncodeOfDecodeIsTheWord :
    decode 0x14017FF#27 = .ok (.w4017 0xFF) ∧ decode 0x04015FF#27 = .ok .rd4015 := by decide
theorem witness_TableRowsSelectOperations :
    0x04015FF#27 &&& (tableRow .rd4015).2 = (tableRow .rd4015).1 ∧ decode 0x2FFFFFF#27 = .ok (.tick 0xFFFFFF) := by decide
theorem witness_RefusedOperationsAreNamed_reads : (∀ s : State, (s.setPending [.word 0x0400000]).pending
      = .word 0x0400000 :: [])
    ∧ (0x0400000#27).toNat / 2 ^ 24 = 0 ∧ 0x4000 ≤ (0x0400000#27).toNat / 256 % 2 ^ 16
    ∧ (0x0401700#27).toNat / 2 ^ 24 = 0 ∧ (0x0401700#27).toNat / 256 % 2 ^ 16 ≤ 0x4017
    ∧ (0x0401400#27).toNat / 256 % 2 ^ 16 ≠ 0x4015 := ⟨fun _ => rfl, by decide⟩
theorem witness_RefusedOperationsAreNamed_kinds :
    4 ≤ (0x4000000#27).toNat / 2 ^ 24 ∧ 4 ≤ (0x7FFFFFF#27).toNat / 2 ^ 24 := by decide
theorem witness_RefusedOperationsAreNamed_channels :
    (0x3000005#27).toNat / 2 ^ 24 = 3 ∧ 5 ≤ (0x3000005#27).toNat % 2 ^ 24 := by decide
theorem witness_RefusedOperationsAreNamed_addresses :
    (0x03FFF00#27).toNat / 2 ^ 24 ≤ 1 ∧ (0x03FFF00#27).toNat / 256 % 2 ^ 16 < 0x4000
    ∧ (0x1401800#27).toNat / 2 ^ 24 ≤ 1 ∧ 0x4017 < (0x1401800#27).toNat / 256 % 2 ^ 16 := by decide
theorem witness_RunIsTheFoldOfOperations :
    ∀ i ∈ [Instr.w4003 8, .tick (2 ^ 24 - 1), .sampleP1], i.wellFormed = true := by decide

theorem witness_EnvelopeTicked : ¬ Underflows .zeroAfterDecrement 2 ∧ Underflows .zeroAfterDecrement 1
    ∧ ¬ Underflows .belowZero 1 ∧ Underflows .belowZero 0 := by
  simp only [Underflows]
  decide
theorem witness_BitSet : BitSet 0x80 7 ∧ ¬ BitSet 0x7F 7 ∧ BitSet 0x40 6 ∧ ¬ BitSet 0xBF 6
    ∧ BitSet 0x1F 0 ∧ BitSet 0x1F 1 ∧ BitSet 0x1F 2 ∧ BitSet 0x1F 3 ∧ BitSet 0x1F 4
    ∧ ¬ BitSet 0xE0 0 ∧ ¬ BitSet 0xE0 1 ∧ ¬ BitSet 0xE0 2 ∧ ¬ BitSet 0xE0 3 ∧ ¬ BitSet 0xE0 4 := by
  simp only [BitSet]
  decide
theorem witness_EnableWrite : BitSet 0x10 4 ∧ stateV27.dmc.bytesRemaining ≠ 0 ∧ (ready 1).dmc.bytesRemaining = 0 := by
  simp only [BitSet]
  decide
theorem witness_DmcStartWrite : BitSet 0x10 4 ∧ (ready 1).dmc.bytesRemaining = 0
    ∧ ({ dmcAtPowerOn with bytesRemaining := 1, loopFlag := true } : Dmc).bytesRemaining = 1
    ∧ ({ dmcAtPowerOn with bytesRemaining := 1, loopFlag := true } : Dmc).loopFlag = true := by
  simp only [BitSet]
  decide
theorem witness_WritesAreIdempotentBackToBack : kindOf (encode (.w4013 0xFF)) = 1#3 := by decide

/-- The state with the sequencer in a given mode, at a given step, with a given accumulator. -/
def atStep (mode : FrameMode) (n acc : Nat) : State :=
  { ready 1 with frame := ⟨acc, n, mode, false, false⟩ }

theorem witness_OneIntervalFiresTheNextStep : ∀ mode : FrameMode, ∀ n : Nat,
    (atStep mode n 0).frame.cycleAccumulator = 0 ∧ (atStep mode n 0).frame.mode = mode
    ∧ (atStep mode n 0).frame.step = n := fun _ _ => ⟨rfl, rfl, rfl⟩
theorem witness_QuarterFrameTick : (atStep .fourStep 0 0).frame.cycleAccumulator = 0
    ∧ (atStep .fourStep 0 0).frame.mode = .fourStep ∧ (atStep .fourStep 0 0).frame.step = 0 := by decide
theorem witness_HalfFrameTick : (atStep .fourStep 1 0).frame.cycleAccumulator = 0
    ∧ (atStep .fourStep 1 0).frame.mode = .fourStep ∧ (atStep .fourStep 1 0).frame.step = 1 := by decide
theorem witness_TickAdvancesTheSequencer :
    (atStep .fourStep 3 7456).frame.mode = .fourStep ∧ (atStep .fourStep 3 7456).frame.step ≤ 3
    ∧ (atStep .fiveStep 4 7456).frame.mode = .fiveStep ∧ (atStep .fiveStep 4 7456).frame.step ≤ 4 := by decide
/-- One cycle from accumulator 7456 at step 3 fires step 4; with the inhibit the flag stays. -/
theorem witness_FrameIrqIsSetAtStepFour :
    after (.tick 1) (atStep .fourStep 3 7456) (fun t => t.frame.irqFlag) = some true
    ∧ after (.tick 1) { ready 1 with frame := ⟨7456, 3, .fourStep, true, false⟩ } (fun t => t.frame.irqFlag) = some false
    ∧ after (.tick 1) (atStep .fiveStep 3 7456) (fun t => t.frame.irqFlag) = some false := by decide
theorem witness_TickIsAdditive : (atStep .fourStep 0 7456).frame.cycleAccumulator < 7457 := by decide
theorem witness_EnvelopePeriod :
    (⟨15, false, false, 1, 16⟩ : Envelope).divider = (⟨15, false, false, 1, 16⟩ : Envelope).volume.toNat + 1
    ∧ 0 < (⟨15, false, false, 1, 16⟩ : Envelope).decayCounter := by decide

theorem witness_PhaseAdvanceCountsWraps : 0 < (ready 1).cfg.fs ∧ (0 : Rat) ≤ 0 ∧ (0 : Rat) ≤ 0 := by decide +kernel
/-- The hypotheses of the active clause, the phase on either side of the duty. -/
theorem witness_PulseSampled : VolumeIs ⟨9, true, false, 3, 1⟩ 9 ∧ VolumeIs ⟨9, false, false, 3, 1⟩ 3
    ∧ DutyIs 0 (1 / 8) ∧ DutyIs 1 (1 / 4) ∧ DutyIs 2 (1 / 2) ∧ DutyIs 3 (3 / 4)
    ∧ (0 : Rat) < 1 / 8 ∧ (3 / 4 : Rat) ≤ 3 / 4 := by
  simp only [VolumeIs, DutyIs]
  decide +kernel
/-- At phase 1/2 both clauses hold and agree. -/
theorem witness_TriangleSample : after .sampleTri ((ready (3579545 / 8)).setTri
    { triangleAtPowerOn with enabled := true, phase := 3 / 8, len := ⟨254, false⟩, lin := ⟨127, 127, true, false⟩ })
    (fun t => (t.tri.phase, t.trace)) = some (1 / 2, [.sample .tri 1]) := by decide +kernel
theorem witness_NoiseSample_period : ∀ n : Noise, n.periodIndex = 15 →
    (ready 1).cfg.noisePeriodTable[n.periodIndex.toNat]? = some 4068 := by
  intro n h
  rw [h]
  decide
/-- Both values of the output bit after a sample of an active channel (V23, samples 1 and 15). -/
theorem witness_NoiseSample_bits : (lfsrSteps .long 1 1).toNat % 2 = 0 ∧ (lfsrSteps .long 15 1).toNat % 2 = 1 := by
  decide +kernel
theorem witness_LfsrPeriods : 0 < 32766 ∧ 32766 < 32767 ∧ 0 < 92 ∧ 92 < 93 := by decide
theorem witness_DmcSample : ∀ n : BitVec 4, n = 15 → (ready 1).cfg.dmcRateTable[n.toNat]? = some 54 := by
  intro n h
  rw [h]
  decide
theorem witness_DmcBitInterval : dmcAtPowerOn.bitsRemaining = 0 ∧ dmcAtPowerOn.bytesRemaining = 0
    ∧ 0 < ({ dmcAtPowerOn with bytesRemaining := 1 } : Dmc).bytesRemaining
    ∧ 1 < ({ dmcAtPowerOn with bitsRemaining := 2 } : Dmc).bitsRemaining
    ∧ 0 < ({ dmcAtPowerOn with bitsRemaining := 1, outputLevel := 124, bitBuffer := 1 } : Dmc).bitsRemaining
    ∧ ({ dmcAtPowerOn with bitsRemaining := 1, outputLevel := 124, bitBuffer := 1 } : Dmc).bitBuffer.toNat % 2 = 1
    ∧ 125 ≤ ({ dmcAtPowerOn with bitsRemaining := 2, outputLevel := 125 } : Dmc).outputLevel
    ∧ 2 ≤ ({ dmcAtPowerOn with bitsRemaining := 2, outputLevel := 2 } : Dmc).outputLevel
    ∧ ({ dmcAtPowerOn with bitsRemaining := 2, outputLevel := 1 } : Dmc).bitBuffer.toNat % 2 = 0 := by decide

/-- A state whose next answer is 0xAA, with n bytes to fetch and a given loop flag. -/
def fetching (n : Nat) (loop : Bool) : State :=
  (ready 1 [0xAA]).setDmc { dmcAtPowerOn with sampleAddress := 0xFFFF, bytesRemaining := n, loopFlag := loop, irqEnable := true }

/-- The form with no answer left, bytes remaining. -/
theorem witness_DmcFetchRefillsTheBuffer_noAnswer :
    ((ready 1).setDmc { dmcAtPowerOn with bytesRemaining := 1 }).mapper.answers.head? = none
    ∧ 0 < ((ready 1).setDmc { dmcAtPowerOn with bytesRemaining := 1 }).dmc.bytesRemaining := by decide
theorem witness_DmcFetchRefillsTheBuffer : (fetching 1 false).mapper.answers.head? = some 0xAA
    ∧ 0 < (fetching 1 false).dmc.bytesRemaining ∧ (fetching 1 false).dmc.bytesRemaining = 1
    ∧ (fetching 1 false).dmc.loopFlag = false ∧ (fetching 1 true).dmc.loopFlag = true
    ∧ 1 < (fetching 2 true).dmc.bytesRemaining ∧ (fetching 1 false).dmc.sampleAddress.toNat = 0xFFFF
    ∧ (ready 1).dmc.sampleAddress.toNat < 0xFFFF := by decide
theorem witness_FetchesStayInTheSampleSpace :
    0x8000 ≤ ({ ready 1 with dmc := { dmcAtPowerOn with sampleAddress := 0x8000 } } : State).dmc.sampleAddress.toNat := by
  decide
/-- A state of the invariant. -/
theorem witness_Safe : (ready 1).Safe := by decide +kernel
/-- A step from a state of the invariant answers a next state. -/
theorem witness_StepKeepsTheInvariant : (issued 0x1401304).Safe
    ∧ afterStep (issued 0x1401304) (fun t => t.dmc.bytesRemaining) = some 65 := by decide +kernel

theorem witness_FrameIrqIsSetAtStepFour_latch :
    after .rd4015 stateV27 (fun t => t.frame.irqFlag) = some false
    ∧ after (.w4017 0x40) stateV27 (fun t => t.frame.irqFlag) = some false
    ∧ after (.tick 1) (atStep .fourStep 3 7456) (fun t => t.frame.irqFlag) = some true := by decide
theorem witness_DmcIrqLifeCycle :
    after (.w4015 0x1F) stateV27 (fun t => t.dmc.irqFlag) = some false
    ∧ after (.w4010 0x7F) stateV27 (fun t => t.dmc.irqFlag) = some false
    ∧ after .sampleDmc ((ready (3579545 / 856) [0xAA]).setDmc
        { dmcAtPowerOn with irqEnable := true, enabled := true, bytesRemaining := 1 }) (fun t => t.dmc.irqFlag)
      = some true := by decide +kernel
theorem witness_OnlyResetsLoadLengthCounters :
    after (.w4003 0x00) (ready 1) (fun t => t.pulse1.len.counter) = some 10
    ∧ after (.w4007 0x00) (ready 1) (fun t => t.pulse2.len.counter) = some 10
    ∧ after (.w400B 0x00) (ready 1) (fun t => t.tri.len.counter) = some 10
    ∧ after (.w400F 0x00) (ready 1) (fun t => t.noise.len.counter) = some 10 := by decide
theorem witness_ControlStateHasOneWriter :
    after (.w4015 0x1F) (ready 1) (fun t => (t.pulse1.enabled, t.dmc.enabled)) = some (true, true)
    ∧ after (.w4017 0xC0) (ready 1) (fun t => (t.frame.mode, t.frame.irqInhibit)) = some (.fiveStep, true)
    ∧ after (.w4012 0x40) (ready 1) (fun t => t.dmc.startReg) = some 0x40
    ∧ after (.w4013 0x40) (ready 1) (fun t => t.dmc.lengthReg) = some 0x40 := by decide

end Sys2Proof.Tests
end

section
/-! PROOF. Two rules of spec/41_writes_triangle_noise_dmc.md: the triangle's low period write (R131) and the DMC's
restart (R143). -/

namespace Sys2Proof.Machine

/-! ## The triangle's low period byte -/

/-- `W400A` through the dispatch (R131): one update, of the period. -/
theorem exec_w400A (d : Byte) (s : State) :
    exec (.w400A d) s = .next (s.setTri { s.tri with timerPeriod := withPeriodLow s.tri.timerPeriod d }) := rfl

/-- Settles O14: the one next state of `exec_w400A`, whose period is `withPeriodLow_toNat`'s number. -/
theorem trianglePeriodLowWrite : Obligations.TrianglePeriodLowWrite := by
  intro d s
  refine ⟨_, exec_w400A d s, ?period, ?frame⟩
  case period => exact withPeriodLow_toNat s.tri.timerPeriod d
  case frame => rw [State.setTri_tri]

/-! ## The DMC's restart -/

theorem dmcRestart_sampleAddress_toNat (c : Dmc) :
    (dmcRestart c).sampleAddress.toNat = 0xC000 + 64 * c.startReg.toNat :=
  dmcStartAddress_toNat c.startReg

theorem dmcRestart_bytesRemaining (c : Dmc) : (dmcRestart c).bytesRemaining = 16 * c.lengthReg.toNat + 1 := rfl

/-- A restart touches the sample address and the byte count only (R143). -/
theorem dmcRestart_frame (c : Dmc) :
    dmcRestart c = { c with
      sampleAddress := (dmcRestart c).sampleAddress, bytesRemaining := (dmcRestart c).bytesRemaining } := rfl

/-- Settles O23: the two loaded values as numbers; their ranges are those of a byte, scaled. -/
theorem dmcRestartLoadsAddressAndCount : Obligations.DmcRestartLoadsAddressAndCount := by
  intro c
  have haddr := dmcRestart_sampleAddress_toNat c
  have hbytes := dmcRestart_bytesRemaining c
  have hstart : c.startReg.toNat < 256 := c.startReg.isLt
  have hlength : c.lengthReg.toNat < 256 := c.lengthReg.isLt
  refine ⟨haddr, hbytes, ?_, ?_, ?_, ?_, dmcRestart_frame c⟩ <;> omega

end Sys2Proof.Machine
end

section
/-! PROOF. The frame sequencer (spec/43_frame_sequencer_and_units.md): the rows of the two step sequences (R181), and the
life of the frame IRQ flag (R180, R185, decisions D7, D11). -/

namespace Sys2Proof.Machine

/-! ## One interval -/

/-- `TICK` through the dispatch (R180). -/
theorem exec_tick (n : Nat) (s : State) : exec (.tick n) s = .next (tickCycles n s) := rfl

/-- 7457 cycles on an empty accumulator are one frame step (R180). -/
theorem tickCycles_oneInterval {s : State} (hacc : s.frame.cycleAccumulator = 0) :
    tickCycles 7457 s = frameStep s := by
  have hrest : (frameStep s).frame.cycleAccumulator = 0 := by simp [hacc]
  calc tickCycles 7457 s = (frameStep s).setAccumulator 0 := by rw [tickCycles_eq, hacc]; rfl
    _ = frameStep s := by rw [← hrest, State.setAccumulator_self]

/-- The frame record after a step of the 4-step sequence. -/
theorem frameAfterStep_fourStep {f : FrameSequencer} (hm : f.mode = .fourStep) :
    frameAfterStep f =
      if 3 ≤ f.step then { f with step := 0, irqFlag := f.irqFlag || !f.irqInhibit }
      else { f with step := f.step + 1 } := by
  simp only [frameAfterStep, hm]

/-- The frame record after a step of the 5-step sequence. -/
theorem frameAfterStep_fiveStep {f : FrameSequencer} (hm : f.mode = .fiveStep) :
    frameAfterStep f = if 4 ≤ f.step then { f with step := 0 } else { f with step := f.step + 1 } := by
  simp only [frameAfterStep, hm]

/-- A step of the 4-step sequence (R181): a quarter tick, a half tick at steps 2 and 4, the flag and the wrap from
step 4 on. -/
theorem frameStep_fourStep {s : State} (hm : s.frame.mode = .fourStep) :
    frameStep s =
      (if s.frame.step = 1 ∨ s.frame.step = 3 then half (quarter s) else quarter s).setFrame
        (if 3 ≤ s.frame.step then { s.frame with step := 0, irqFlag := s.frame.irqFlag || !s.frame.irqInhibit }
          else { s.frame with step := s.frame.step + 1 }) := by
  rw [frameStep_eq, frameAfterStep_fourStep hm]
  simp only [unitsAfterStep, hm, Nat.reduceEqDiff]

/-- A step of the 5-step sequence (R181): a quarter tick at steps 1 to 4, a half tick at steps 1 and 3, only the wrap at
step 5. -/
theorem frameStep_fiveStep {s : State} (hm : s.frame.mode = .fiveStep) :
    frameStep s =
      (if 4 ≤ s.frame.step then s
        else if s.frame.step = 0 ∨ s.frame.step = 2 then half (quarter s) else quarter s).setFrame
        (if 4 ≤ s.frame.step then { s.frame with step := 0 } else { s.frame with step := s.frame.step + 1 }) := by
  rw [frameStep_eq, frameAfterStep_fiveStep hm]
  simp only [unitsAfterStep, hm]

/-- Settles O29: one interval is one frame step, and each row is the step's equation in its mode at its count. -/
theorem oneIntervalFiresTheNextStep : Obligations.OneIntervalFiresTheNextStep := by
  intro s hacc
  rw [exec_tick, tickCycles_oneInterval hacc]
  constructor
  · intro hm
    rw [frameStep_fourStep hm]
    refine ⟨?_, ?_, ?_, ?_, ?pastTheLast⟩
    case pastTheLast =>
      intro hs
      have hhalf : ¬ (s.frame.step = 1 ∨ s.frame.step = 3) := by omega
      have hwrap : 3 ≤ s.frame.step := by omega
      rw [if_neg hhalf, if_pos hwrap]
    all_goals
      intro hs
      simp [hs]
  · intro hm
    rw [frameStep_fiveStep hm]
    refine ⟨?_, ?_, ?_, ?_, ?stepFive⟩
    case stepFive =>
      intro hs
      rw [if_pos hs, if_pos hs]
    all_goals
      intro hs
      simp [hs]

/-! ## The frame IRQ flag under TICK -/

/-- A frame step's flag: it was set, or step 4 of the 4-step sequence fires uninhibited (R185). -/
theorem frameAfterStep_irqFlag_iff (f : FrameSequencer) :
    (frameAfterStep f).irqFlag = true ↔
      f.irqFlag = true ∨ (f.mode = .fourStep ∧ f.irqInhibit = false ∧ 3 ≤ f.step) := by
  cases hm : f.mode with
  | fourStep =>
    rw [frameAfterStep_fourStep hm]
    by_cases hlast : 3 ≤ f.step <;> simp [hlast]
  | fiveStep =>
    rw [frameAfterStep_fiveStep hm]
    split <;> simp

/-- The step count goes round the four steps (R181). -/
theorem frameAfterStep_step_fourStep {f : FrameSequencer} (hm : f.mode = .fourStep) (hle : f.step ≤ 3) :
    (frameAfterStep f).step = if f.step = 3 then 0 else f.step + 1 := by
  have hlast : 3 ≤ f.step ↔ f.step = 3 := by omega
  simp only [frameAfterStep_fourStep hm, hlast, apply_ite FrameSequencer.step]

/-- The flag after k steps of the 4-step sequence: it was set, or step 4 is among them and the inhibit is 0. -/
theorem iterate_frameAfterStep_irqFlag_iff (k : Nat) {f : FrameSequencer} (hm : f.mode = .fourStep)
    (hle : f.step ≤ 3) :
    (frameAfterStep^[k] f).irqFlag = true ↔ f.irqFlag = true ∨ (f.irqInhibit = false ∧ 4 ≤ f.step + k) := by
  induction k generalizing f with
  | zero =>
    have hnone : ¬ 4 ≤ f.step := by omega
    simp [hnone]
  | succ k ih =>
    have hstep := frameAfterStep_step_fourStep hm hle
    have hle' : (frameAfterStep f).step ≤ 3 := by rw [hstep]; split <;> omega
    have hfires : (3 ≤ f.step ∨ 4 ≤ (frameAfterStep f).step + k) ↔ 4 ≤ f.step + (k + 1) := by
      rw [hstep]
      split <;> omega
    rw [Function.iterate_succ_apply, ih (by rw [frameAfterStep_mode, hm]) hle', frameAfterStep_irqFlag_iff,
      frameAfterStep_irqInhibit]
    simp only [hm, true_and, or_assoc, ← and_or_left, hfires]

/-- The frame record of k frame steps is its own k-fold step. -/
theorem iterate_frameStep_frame (k : Nat) (s : State) : (frameStep^[k] s).frame = frameAfterStep^[k] s.frame :=
  (Function.Semiconj.iterate_right (f := State.frame) frameStep_frame k) s

/-- TICK's flag is the flag of its frame steps, one for each whole interval (D7). -/
theorem tickCycles_irqFlag (n : Nat) (s : State) :
    (tickCycles n s).frame.irqFlag =
      (frameAfterStep^[(s.frame.cycleAccumulator + n) / 7457] s.frame).irqFlag := by
  rw [tickCycles_eq, State.setAccumulator_frame, iterate_frameStep_frame]

/-- TICK leaves a set flag set. -/
theorem tickCycles_irqFlag_of_set (n : Nat) {s : State} (hset : s.frame.irqFlag = true) :
    (tickCycles n s).frame.irqFlag = true := by
  refine tickCycles_induction (P := fun t => t.frame.irqFlag = true) (fun t ht => ?_) (fun _ _ ht => ht) n s hset
  rw [frameStep_frame, frameAfterStep_irqFlag_iff]
  exact .inl ht

/-- In 5-step mode, or inhibited, TICK leaves the flag as it is. -/
theorem tickCycles_irqFlag_of_silent (n : Nat) {s : State}
    (hsilent : ¬ (s.frame.mode = .fourStep ∧ s.frame.irqInhibit = false)) :
    (tickCycles n s).frame.irqFlag = s.frame.irqFlag := by
  have hstep : ∀ t : State, (t.frame.mode = s.frame.mode ∧ t.frame.irqInhibit = s.frame.irqInhibit
        ∧ t.frame.irqFlag = s.frame.irqFlag) →
      (frameStep t).frame.mode = s.frame.mode ∧ (frameStep t).frame.irqInhibit = s.frame.irqInhibit
        ∧ (frameStep t).frame.irqFlag = s.frame.irqFlag := by
    rintro t ⟨hmode, hinhibit, hflag⟩
    have hnot : ¬ (t.frame.mode = .fourStep ∧ t.frame.irqInhibit = false ∧ 3 ≤ t.frame.step) := by
      rintro ⟨hm, hi, -⟩
      exact hsilent ⟨hmode ▸ hm, hinhibit ▸ hi⟩
    refine ⟨by simp [hmode], by simp [hinhibit], ?_⟩
    rw [frameStep_frame, Bool.eq_iff_iff, frameAfterStep_irqFlag_iff, or_iff_left hnot, hflag]
  obtain ⟨-, -, hflag⟩ := tickCycles_induction hstep (fun _ _ ht => ht) n s ⟨rfl, rfl, rfl⟩
  exact hflag

/-! ## The frame sequencer's record under every operation -/

/-- `W4017`'s flag: bit 6 of the byte clears it (R162). -/
theorem exec_w4017_irqFlag {d : Byte} {s t : State} (h : exec (.w4017 d) s = .next t) :
    t.frame.irqFlag = (s.frame.irqFlag && !irqInhibitField d) := by
  cases h
  simp only [State.setFrame_frame]
  cases irqInhibitField d <;> simp [FrameSequencer.clearIrq]

/-- SAMPLE.DMC leaves the frame sequencer alone, with or without its bit clocks. -/
theorem exec_sampleDmc_frame {s t : State} (h : exec .sampleDmc s = .next t) : t.frame = s.frame := by
  simp only [exec, execSampleDmc_eq] at h
  cases h
  rw [State.emit_frame, dmcClocks_frame, State.setDmc_frame]

/-- What an operation can do to the frame IRQ flag: only the status read, `W4017` and TICK touch it. -/
theorem exec_irqFlag_cases {i : Instr} {s t : State} (h : exec i s = .next t) :
    t.frame.irqFlag = s.frame.irqFlag
    ∨ (i = .rd4015 ∧ t.frame.irqFlag = false)
    ∨ (∃ d, i = .w4017 d ∧ t.frame.irqFlag = (s.frame.irqFlag && !irqInhibitField d))
    ∨ (∃ n, i = .tick n ∧ t = tickCycles n s) := by
  cases i
  case rd4015 => cases h; exact .inr (.inl ⟨rfl, rfl⟩)
  case w4017 d => exact .inr (.inr (.inl ⟨d, rfl, exec_w4017_irqFlag h⟩))
  case tick n => cases h; exact .inr (.inr (.inr ⟨n, rfl, rfl⟩))
  case sampleDmc => exact .inl (by rw [exec_sampleDmc_frame h])
  all_goals
    cases h
    exact .inl rfl

/-- The flag goes from set to clear only by the status read or a $4017 write with bit 6 set (D11). -/
theorem irqFlag_cleared_only_by {i : Instr} {s t : State} (h : exec i s = .next t)
    (hset : s.frame.irqFlag = true) (hclear : t.frame.irqFlag = false) :
    i = .rd4015 ∨ ∃ d, i = .w4017 d ∧ BitSet d 6 := by
  rcases exec_irqFlag_cases h with hkept | ⟨hi, -⟩ | ⟨d, hi, hflag⟩ | ⟨n, -, rfl⟩
  · simp [hkept, hset] at hclear
  · exact .inl hi
  · have hbit : irqInhibitField d = true := by simpa [hflag, hset] using hclear
    exact .inr ⟨d, hi, (getLsbD_eq_true_iff d 6).mp hbit⟩
  · simp [tickCycles_irqFlag_of_set n hset] at hclear

/-- The flag goes from clear to set only by TICK, in 4-step mode with the inhibit 0. -/
theorem irqFlag_set_only_by {i : Instr} {s t : State} (h : exec i s = .next t)
    (hclear : s.frame.irqFlag = false) (hset : t.frame.irqFlag = true) :
    (∃ n, i = .tick n) ∧ s.frame.mode = .fourStep ∧ s.frame.irqInhibit = false := by
  rcases exec_irqFlag_cases h with hkept | ⟨-, hflag⟩ | ⟨d, -, hflag⟩ | ⟨n, hi, rfl⟩
  · simp [hkept, hclear] at hset
  · simp [hflag] at hset
  · simp [hflag, hclear] at hset
  · refine ⟨⟨n, hi⟩, ?_⟩
    by_contra hsilent
    simp [tickCycles_irqFlag_of_silent n hsilent, hclear] at hset

/-- Settles O33: TICK's flag by the number of its steps, and the latch from what each operation does to the flag. -/
theorem frameIrqIsSetAtStepFour : Obligations.FrameIrqIsSetAtStepFour := by
  refine ⟨fun n s => ⟨_, exec_tick n s, ?fourStep, ?silent⟩, ?latch⟩
  case fourStep =>
    intro hm hle
    rw [tickCycles_irqFlag]
    exact iterate_frameAfterStep_irqFlag_iff _ hm hle
  case silent =>
    intro h
    refine tickCycles_irqFlag_of_silent n ?_
    rintro ⟨hm, hi⟩
    simp [hm, hi] at h
  case latch =>
    exact fun i s t h => ⟨irqFlag_cleared_only_by h, irqFlag_set_only_by h⟩

end Sys2Proof.Machine
end

section
/-! PROOF. The operation words (spec/30_encoding.md R80, R99): decoder, encoder and operation table agree. -/

namespace Sys2Proof

/-! ## Encode, then decode -/

/-- Every operation that has a word is decoded from it. -/
theorem decode_encode {i : Instr} (h : i.wellFormed = true) : decode (encode i) = .ok i := by
  cases i
  case tick n =>
    have hn : n < 2 ^ 24 := by simpa [Instr.wellFormed] using h
    rw [encode, decode_tick, BitVec.toNat_ofNat, Nat.mod_eq_of_lt hn]
  case rd4015 => exact decode_read _ _
  case sampleP1 | sampleP2 | sampleTri | sampleNoi | sampleDmc => exact decode_sample _ _
  all_goals exact decode_write _ _

/-- Settles O3: each word is given by its fields, and the decoder on these fields is `decode_write` and its like. -/
theorem decodeOfEncodeIsTheOperation : Obligations.DecodeOfEncodeIsTheOperation :=
  fun _ h => decode_encode h

/-! ## Decode, then encode -/

/-- A WR word's fields are those of the operation it decodes to. -/
theorem encode_of_decodeWrite {a : Addr} {d : Byte} {i : Instr} (h : decodeWrite a d = .ok i) :
    i.wellFormed = true ∧ i ≠ .rd4015 ∧ encode i = opWord 1#3 a d := by
  unfold decodeWrite at h
  split at h <;> cases h <;> exact ⟨rfl, nofun, rfl⟩

/-- An SM word's fields are those of the operation it decodes to. -/
theorem encode_of_decodeSample {a : Addr} {d : Byte} {i : Instr} (h : decodeSample a d = .ok i) :
    i.wellFormed = true ∧ i ≠ .rd4015 ∧ encode i = opWord 3#3 a d := by
  unfold decodeSample at h
  split at h
  · subst a
    split at h <;> cases h <;> exact ⟨rfl, nofun, rfl⟩
  · cases h

/-- Only $4015 is read. -/
theorem decodeRead_ok {a : Addr} {i : Instr} (h : decodeRead a = .ok i) : a = 0x4015#16 ∧ i = .rd4015 := by
  unfold decodeRead at h
  split at h
  · cases h
    exact ⟨‹_›, rfl⟩
  · split at h <;> cases h

/-- A word that decodes is a status read with some byte, or the word of a well-formed operation other than that. -/
theorem decode_ok_cases {w : OpWord} {i : Instr} (h : decode w = .ok i) :
    (i = .rd4015 ∧ ∃ d, w = opWord 0#3 0x4015#16 d) ∨ (i.wellFormed = true ∧ i ≠ .rd4015 ∧ encode i = w) := by
  have hw := opWord_fields w
  unfold decode at h
  split at h
  next hk =>
    obtain ⟨ha, hi⟩ := decodeRead_ok h
    exact .inl ⟨hi, dataOf w, by rw [← hk, ← ha, hw]⟩
  next hk =>
    exact .inr (by simpa [← hk, hw] using encode_of_decodeWrite h)
  next hk =>
    cases h
    refine .inr ⟨?_, nofun, ?_⟩
    · simpa [Instr.wellFormed] using (countOf w).isLt
    · rw [encode, BitVec.ofNat_toNat, BitVec.setWidth_eq, tickWord_fields w hk]
  next hk =>
    exact .inr (by simpa [← hk, hw] using encode_of_decodeSample h)
  next => cases h

/-- Settles O4: by the word's kind; the status read's address is its number without the byte. -/
theorem encodeOfDecodeIsTheWord : Obligations.EncodeOfDecodeIsTheWord := by
  intro w i h
  rcases decode_ok_cases h with ⟨rfl, d, rfl⟩ | ⟨hwf, hne, henc⟩
  · refine ⟨rfl, fun hne => absurd rfl hne, fun _ => ?_⟩
    have := d.isLt
    rw [opWord_toNat]
    simp only [BitVec.toNat_ofNat]
    omega
  · exact ⟨hwf, fun _ => henc, fun hi => absurd hi hne⟩

/-! ## The operation table -/

/-- An operation's word matches its row of the operation table. -/
theorem encode_matches_row : ∀ i : Instr, encode i &&& (tableRow i).2 = (tableRow i).1
  | .w4000 d => Laws.TableRow.w4000 d
  | .w4001 d => Laws.TableRow.w4001 d
  | .w4002 d => Laws.TableRow.w4002 d
  | .w4003 d => Laws.TableRow.w4003 d
  | .w4004 d => Laws.TableRow.w4004 d
  | .w4005 d => Laws.TableRow.w4005 d
  | .w4006 d => Laws.TableRow.w4006 d
  | .w4007 d => Laws.TableRow.w4007 d
  | .w4008 d => Laws.TableRow.w4008 d
  | .w4009 d => Laws.TableRow.w4009 d
  | .w400A d => Laws.TableRow.w400A d
  | .w400B d => Laws.TableRow.w400B d
  | .w400C d => Laws.TableRow.w400C d
  | .w400D d => Laws.TableRow.w400D d
  | .w400E d => Laws.TableRow.w400E d
  | .w400F d => Laws.TableRow.w400F d
  | .w4010 d => Laws.TableRow.w4010 d
  | .w4011 d => Laws.TableRow.w4011 d
  | .w4012 d => Laws.TableRow.w4012 d
  | .w4013 d => Laws.TableRow.w4013 d
  | .w4014 d => Laws.TableRow.w4014 d
  | .w4015 d => Laws.TableRow.w4015 d
  | .w4016 d => Laws.TableRow.w4016 d
  | .w4017 d => Laws.TableRow.w4017 d
  | .rd4015 => Laws.TableRow.rd4015
  | .tick n => Laws.TableRow.tick n
  | .sampleP1 => Laws.TableRow.sampleP1
  | .sampleP2 => Laws.TableRow.sampleP2
  | .sampleTri => Laws.TableRow.sampleTri
  | .sampleNoi => Laws.TableRow.sampleNoi
  | .sampleDmc => Laws.TableRow.sampleDmc

/-- A word's kind and address, from its bits under the mask of these two fields. -/
theorem fields_of_and_mask {w : OpWord} {k : BitVec 3} {a : Addr} (h : w &&& 0x7FFFF00#27 = opWord k a 0#8) :
    w = opWord k a (dataOf w) := by
  rw [← opWord_fields w, opWord_and_mask] at h
  have hk : kindOf w = k := by simpa using congrArg kindOf h
  have ha : addrOf w = a := by simpa using congrArg addrOf h
  rw [← hk, ← ha, opWord_fields]

/-- A word in the TICK row has the TK kind. -/
theorem kind_of_and_mask {w : OpWord} (h : w &&& 0x7000000#27 = 0x2000000#27) : kindOf w = 2#3 := by
  have hb : ∀ i : Fin 3, (w &&& 0x7000000#27).getLsbD (24 + i) = (2#3 : BitVec 3).getLsbD i := by
    rw [h]
    decide
  have hm : ∀ i : Fin 3, (0x7000000#27 : OpWord).getLsbD (24 + i) = true := by decide
  apply BitVec.eq_of_getLsbD_eq
  intro i hi
  rw [← hb ⟨i, hi⟩, BitVec.getLsbD_and, hm ⟨i, hi⟩, Bool.and_true, kindOf, BitVec.getLsbD_extractLsb']
  simp [hi]

/-- A word in the row of a WR operation decodes as the same write of another byte. -/
theorem decode_of_write_row {w : OpWord} {a : Addr} {d : Byte}
    (h : w &&& 0x7FFFF00#27 = opWord 1#3 a d &&& 0x7FFFF00#27) : decode w = decodeWrite a (dataOf w) := by
  rw [opWord_and_mask] at h
  rw [fields_of_and_mask h, decode_write, dataOf_opWord]

/-- A word that matches a row decodes to an operation of that row. -/
theorem decode_of_row {w : OpWord} {j : Instr} (h : w &&& (tableRow j).2 = (tableRow j).1) :
    ∃ i, decode w = .ok i ∧ tableRow i = tableRow j := by
  have hj := h.trans (encode_matches_row j).symm
  cases j
  case rd4015 =>
    refine ⟨.rd4015, ?_, rfl⟩
    rw [fields_of_and_mask (k := 0#3) (a := 0x4015#16) h, decode_read]
    rfl
  case tick n => exact ⟨.tick (countOf w).toNat, by rw [← decode_tick, tickWord_fields w (kind_of_and_mask h)], rfl⟩
  case sampleP1 | sampleP2 | sampleTri | sampleNoi | sampleDmc =>
    have hw : w = (tableRow _).1 := (BitVec.and_allOnes (x := w)).symm.trans h
    exact ⟨_, by rw [hw]; rfl, rfl⟩
  all_goals exact ⟨_, decode_of_write_row hj, rfl⟩

/-- A word that decodes matches the row of its operation. -/
theorem row_of_decode {w : OpWord} {i : Instr} (h : decode w = .ok i) : w &&& (tableRow i).2 = (tableRow i).1 := by
  rcases decode_ok_cases h with ⟨rfl, d, rfl⟩ | ⟨-, -, rfl⟩
  · exact (opWord_and_mask _ _ d).trans rfl
  · exact encode_matches_row i

/-- Settles O5: a row fixes the fields its mask keeps, and a word that decodes is an encoding but for RD's byte. -/
theorem tableRowsSelectOperations : Obligations.TableRowsSelectOperations :=
  ⟨fun _ _ => decode_of_row, fun _ _ => row_of_decode⟩

/-- Settles O2: the decoder run on the ten words. -/
theorem specWordsDecode : Obligations.SpecWordsDecode := by
  unfold Obligations.SpecWordsDecode
  decide

/-! ## The words that are refused -/

/-- A read inside the window but of $4015 is rejected by its address. -/
theorem decodeRead_notStatus {a : Addr} (hlo : 0x4000 ≤ a.toNat) (hhi : a.toNat ≤ 0x4017) (hne : a.toNat ≠ 0x4015) :
    decodeRead a = .error (.readNotStatus a) := by
  have hne' : a ≠ 0x4015#16 := fun e => hne (by rw [e]; rfl)
  simp [decodeRead, hne', inWindow, hlo, hhi]

/-- A read outside the window is rejected as such. -/
theorem decodeRead_outside {a : Addr} (h : a.toNat < 0x4000 ∨ 0x4017 < a.toNat) :
    decodeRead a = .error (.outsideWindow a) := by
  have hne : a ≠ 0x4015#16 := by
    rintro rfl
    simp at h
  have hout : inWindow a = false := by
    simp only [inWindow, Bool.and_eq_false_iff, decide_eq_false_iff_not]
    omega
  simp [decodeRead, hne, hout]

/-- A write outside the window is rejected as such. -/
theorem decodeWrite_outside {a : Addr} {d : Byte} (h : a.toNat < 0x4000 ∨ 0x4017 < a.toNat) :
    decodeWrite a d = .error (.outsideWindow a) := by
  unfold decodeWrite
  split
  case h_25 => rfl
  all_goals simp at h

/-- A SAMPLE word whose other bits are not a channel number below 5 is rejected. -/
theorem decodeSample_noChannel {a : Addr} {d : Byte} (h : 5 ≤ a.toNat * 256 + d.toNat) :
    decodeSample a d = .error (.noSuchChannel a d) := by
  unfold decodeSample
  split
  · subst a
    split
    case h_6 => rfl
    all_goals simp at h
  · rfl

/-- A word of kind 4 to 7 is rejected. -/
theorem decode_reserved {w : OpWord} (h : 4 ≤ (kindOf w).toNat) : ∃ k, decode w = .error (.reservedKind k) := by
  unfold decode
  split
  case h_5 => exact ⟨_, rfl⟩
  all_goals simp_all

/-- The kind of a word, from its number. -/
theorem kindOf_eq {w : OpWord} {k : BitVec 3} (h : w.toNat / 2 ^ 24 = k.toNat) : kindOf w = k :=
  BitVec.eq_of_toNat_eq (by rw [kindOf_toNat, h])

/-- The decoder on a word of kind 0, 1 or 3, the kind given by the word's number. -/
theorem decode_of_kind_zero {w : OpWord} (h : w.toNat / 2 ^ 24 = 0) : decode w = decodeRead (addrOf w) := by
  simp only [decode, kindOf_eq (k := 0#3) h]
theorem decode_of_kind_one {w : OpWord} (h : w.toNat / 2 ^ 24 = 1) : decode w = decodeWrite (addrOf w) (dataOf w) := by
  simp only [decode, kindOf_eq (k := 1#3) h]
theorem decode_of_kind_three {w : OpWord} (h : w.toNat / 2 ^ 24 = 3) :
    decode w = decodeSample (addrOf w) (dataOf w) := by
  simp only [decode, kindOf_eq (k := 3#3) h]

end Sys2Proof

namespace Sys2Proof.Machine

/-- Settles O6: the decoder's verdict on each of the four groups, which the step hands on by `step_refused`. -/
theorem refusedOperationsAreNamed : Obligations.RefusedOperationsAreNamed := by
  intro s w rest hp
  rw [← addrOf_toNat]
  refine ⟨?reads, ?kinds, ?channels, ?addresses⟩
  case reads =>
    intro hk hlo hhi hne
    exact step_refused hp ((decode_of_kind_zero hk).trans (decodeRead_notStatus hlo hhi hne))
  case kinds =>
    intro hk
    obtain ⟨k, hd⟩ := decode_reserved (kindOf_toNat w ▸ hk)
    exact step_refused hp hd
  case channels =>
    intro hk hch
    have hrest : 5 ≤ (addrOf w).toNat * 256 + (dataOf w).toNat := by
      rw [addrOf_toNat, dataOf_toNat]
      omega
    exact step_refused hp ((decode_of_kind_three hk).trans (decodeSample_noChannel hrest))
  case addresses =>
    intro hk hout
    rcases Nat.le_one_iff_eq_zero_or_eq_one.mp hk with h0 | h1
    · exact step_refused hp ((decode_of_kind_zero h0).trans (decodeRead_outside hout))
    · exact step_refused hp ((decode_of_kind_one h1).trans (decodeWrite_outside hout))

end Sys2Proof.Machine
end

section
/-! PROOF. The DMC engine (spec/44_synthesizers.md section 5): the bit interval (R218), the fetch (R219), and the sample
operation around them (R217). -/

namespace Sys2Proof.Machine

/-! ## The bit interval -/

/-- With no bit left nothing is consumed. -/
theorem dmcConsume_of_empty {c : Dmc} (h : c.bitsRemaining = 0) : dmcConsume c = c := by
  simp [dmcConsume, h]

/-- With bits left, bit 0 moves the level and is shifted out. -/
theorem dmcConsume_of_bits {c : Dmc} (h : 0 < c.bitsRemaining) :
    dmcConsume c = { c with
      outputLevel := if c.bitBuffer.getLsbD 0 then min (c.outputLevel + 2) 126 else c.outputLevel - 2
      bitBuffer := c.bitBuffer >>> 1
      bitsRemaining := c.bitsRemaining - 1 } := by
  simp only [dmcConsume, if_pos h]

/-- A bit clock that leaves bits, or no bytes to fetch, only consumes. -/
theorem dmcClock_of_no_fetch {s : State} (h : (dmcConsume s.dmc).bitsRemaining ≠ 0 ∨ s.dmc.bytesRemaining = 0) :
    dmcClock s = s.setDmc (dmcConsume s.dmc) := by
  rcases dmcClock_cases s with ⟨-, hclock⟩ | ⟨⟨hbits, hbytes⟩, -⟩
  · exact hclock
  · omega

/-- A bit clock that empties the buffer, with bytes left, fetches. -/
theorem dmcClock_of_fetch {s : State} (hbits : (dmcConsume s.dmc).bitsRemaining = 0)
    (hbytes : 0 < s.dmc.bytesRemaining) : dmcClock s = dmcFetch (s.setDmc (dmcConsume s.dmc)) := by
  rcases dmcClock_cases s with ⟨hno, -⟩ | ⟨-, hclock⟩
  · exact absurd ⟨hbits, hbytes⟩ hno
  · exact hclock

/-- A bit of a vector, as a quotient's parity. -/
theorem getLsbD_eq_decide {n : Nat} (x : BitVec n) (i : Nat) : x.getLsbD i = decide (x.toNat / 2 ^ i % 2 = 1) :=
  Nat.testBit_eq_decide_div_mod_eq

/-- Bit 0 of a vector is its number's parity. -/
theorem getLsbD_zero_eq {n : Nat} (x : BitVec n) : x.getLsbD 0 = decide (x.toNat % 2 = 1) := by
  rw [getLsbD_eq_decide, pow_zero, Nat.div_one]

/-- Settles O44: what is consumed by `dmcConsume_of_bits`, and the fetch by what is then left. -/
theorem dmcBitInterval : Obligations.DmcBitInterval := by
  intro s
  refine ⟨fun hbits hbytes => ?idle, fun hbits hbytes => ?fetchOnly, fun hbits => ⟨dmcConsume s.dmc, ?bit⟩⟩
  case idle => rw [dmcClock_of_no_fetch (.inr hbytes), dmcConsume_of_empty hbits]; rfl
  case fetchOnly =>
    have hempty := dmcConsume_of_empty hbits
    have hnone : (dmcConsume s.dmc).bitsRemaining = 0 := by rw [hempty, hbits]
    rw [dmcClock_of_fetch hnone hbytes, hempty]
    rfl
  case bit =>
    have hconsume := dmcConsume_of_bits hbits
    have hleft : (dmcConsume s.dmc).bitsRemaining = s.dmc.bitsRemaining - 1 := by rw [hconsume]
    refine ⟨?up, ?upClamped, ?down, ?downClamped, ?shifted, ?others, ?noFetch, ?fetch⟩
    case noFetch =>
      intro h
      exact dmcClock_of_no_fetch (by omega)
    case fetch =>
      intro hlast hbytes
      exact dmcClock_of_fetch (by omega) hbytes
    all_goals rw [hconsume]
    case shifted => simp [Nat.shiftRight_eq_div_pow]
    all_goals
      intro hbit hlevel
      simp only [getLsbD_zero_eq, hbit, decide_true, decide_false, Bool.false_eq_true, if_true, if_false, zero_ne_one]
      omega

/-! ## The fetch -/

/-- The DMC with a fetched byte taken in, before the end of the sample is looked at (R219). -/
def dmcLoad (b : Byte) (c : Dmc) : Dmc :=
  { c with
    bitBuffer := b
    bitsRemaining := 8
    sampleAddress := nextSampleAddress c.sampleAddress
    bytesRemaining := c.bytesRemaining - 1 }

theorem dmcRefill_eq_sampleEnd (b : Byte) (c : Dmc) : dmcRefill b c = dmcSampleEnd (dmcLoad b c) := rfl

/-- The end of a sample that does not loop requests the IRQ, if it is enabled. -/
theorem dmcSampleEnd_of_noLoop {c : Dmc} (hbytes : c.bytesRemaining = 0) (hloop : c.loopFlag = false) :
    dmcSampleEnd c = { c with irqFlag := c.irqFlag || c.irqEnable } := by
  rcases dmcSampleEnd_cases c with ⟨hleft, -⟩ | ⟨-, hloops, -⟩ | ⟨-, -, hi, h⟩ | ⟨-, -, hi, h⟩
  · exact absurd hbytes hleft
  · simp [hloop] at hloops
  · rw [h, hi, Bool.or_true]
  · have hkept : (c.irqFlag || c.irqEnable) = c.irqFlag := by rw [hi, Bool.or_false]
    rw [h, hkept]

/-- The end of a looping sample restarts it. -/
theorem dmcSampleEnd_of_loop {c : Dmc} (hbytes : c.bytesRemaining = 0) (hloop : c.loopFlag = true) :
    dmcSampleEnd c = dmcRestart c := by
  simp [dmcSampleEnd, hbytes, hloop]

/-- In the middle of a sample nothing more is done. -/
theorem dmcSampleEnd_of_bytes {c : Dmc} (h : c.bytesRemaining ≠ 0) : dmcSampleEnd c = c := by
  simp [dmcSampleEnd, h]

/-- The end-of-sample action touches the address, the byte count and the flag only. -/
theorem dmcSampleEnd_eq (c : Dmc) :
    dmcSampleEnd c = { c with
      sampleAddress := (dmcSampleEnd c).sampleAddress
      bytesRemaining := (dmcSampleEnd c).bytesRemaining
      irqFlag := (dmcSampleEnd c).irqFlag } := by
  rcases dmcSampleEnd_cases c with ⟨-, h⟩ | ⟨-, -, h⟩ | ⟨-, -, -, h⟩ | ⟨-, -, -, h⟩ <;> rw [h]
  rfl

/-- A refill in the middle of a sample, or at the end of one that does not loop: address and count move by one. -/
theorem dmcRefill_counts {c : Dmc} (b : Byte) (h : 1 < c.bytesRemaining ∨ c.loopFlag = false) :
    (dmcRefill b c).bytesRemaining = c.bytesRemaining - 1
    ∧ (dmcRefill b c).sampleAddress = nextSampleAddress c.sampleAddress := by
  rw [dmcRefill_eq_sampleEnd]
  by_cases hleft : c.bytesRemaining - 1 = 0
  · rw [dmcSampleEnd_of_noLoop hleft (by rcases h with h | h <;> [omega; exact h])]
    exact ⟨rfl, rfl⟩
  · rw [dmcSampleEnd_of_bytes (c := dmcLoad b c) hleft]
    exact ⟨rfl, rfl⟩

/-- Settles O45: the byte and the port by `dmcFetch_cases`, the DMC's fields by the three ends of a fetch. -/
theorem dmcFetchRefillsTheBuffer : Obligations.DmcFetchRefillsTheBuffer := by
  intro s hbytes
  obtain ⟨b, hanswer, hfetch⟩ := dmcFetch_cases s
  refine ⟨b, dmcRefill b s.dmc, ?answer, hfetch, dmcSampleEnd_eq (dmcLoad b s.dmc), ?counts, ?loops, ?requests, ?keeps⟩
  case answer =>
    intro x hx
    obtain ⟨xs, hxs⟩ := List.head?_eq_some_iff.mp hx
    exact hanswer x xs hxs
  case counts =>
    intro h
    obtain ⟨hcount, haddr⟩ := dmcRefill_counts b h
    rw [hcount, haddr, nextSampleAddress_toNat]
    exact ⟨by omega, fun hlast => if_pos hlast, fun hlt => if_neg (by omega)⟩
  case loops =>
    intro hlast hloop
    have hend : (dmcLoad b s.dmc).bytesRemaining = 0 := by simp [dmcLoad, hlast]
    rw [dmcRefill_eq_sampleEnd, dmcSampleEnd_of_loop hend hloop]
    exact ⟨dmcRestart_bytesRemaining _, dmcRestart_sampleAddress_toNat _⟩
  case requests =>
    intro hlast hloop
    have hend : (dmcLoad b s.dmc).bytesRemaining = 0 := by simp [dmcLoad, hlast]
    rw [dmcRefill_eq_sampleEnd, dmcSampleEnd_of_noLoop hend hloop]
    rfl
  case keeps =>
    intro h
    rw [dmcRefill_eq_sampleEnd]
    by_cases hleft : (dmcLoad b s.dmc).bytesRemaining = 0
    · have hlast : s.dmc.bytesRemaining - 1 = 0 := hleft
      rw [dmcSampleEnd_of_loop hleft (by rcases h with h | h <;> [omega; exact h])]
      rfl
    · rw [dmcSampleEnd_of_bytes hleft]
      rfl

/-! ## The fetched addresses -/

theorem nextSampleAddress_ge {a : Addr} (h : 0x8000 ≤ a.toNat) : 0x8000 ≤ (nextSampleAddress a).toNat := by
  rw [nextSampleAddress_toNat]
  split <;> omega

/-- A refill keeps the address in the sample space: it goes on, wraps, or restarts at $C000 or above. -/
theorem dmcRefill_sampleAddress_ge (b : Byte) {c : Dmc} (h : 0x8000 ≤ c.sampleAddress.toNat) :
    0x8000 ≤ (dmcRefill b c).sampleAddress.toNat := by
  by_cases hgo : 1 < c.bytesRemaining ∨ c.loopFlag = false
  · rw [(dmcRefill_counts b hgo).2]
    exact nextSampleAddress_ge h
  · obtain ⟨hlast, hloop⟩ : (dmcLoad b c).bytesRemaining = 0 ∧ c.loopFlag = true := by
      simpa [dmcLoad, Nat.sub_eq_zero_iff_le] using hgo
    rw [dmcRefill_eq_sampleEnd, dmcSampleEnd_of_loop hlast hloop, dmcRestart_sampleAddress_toNat]
    omega

theorem dmcClock_sampleAddress_ge {s : State} (h : 0x8000 ≤ s.dmc.sampleAddress.toNat) :
    0x8000 ≤ (dmcClock s).dmc.sampleAddress.toNat := by
  have haddr := (dmcConsume_keeps s.dmc).1
  rcases dmcClock_cases s with ⟨-, hclock⟩ | ⟨-, hclock⟩
  · simpa [hclock, haddr] using h
  · rw [hclock]
    exact dmcRefill_sampleAddress_ge _ (by simpa [haddr] using h)

theorem dmcClocks_sampleAddress_ge (k : Nat) {s : State} (h : 0x8000 ≤ s.dmc.sampleAddress.toNat) :
    0x8000 ≤ (dmcClocks k s).dmc.sampleAddress.toNat :=
  dmcClocks_induction (P := fun t => 0x8000 ≤ t.dmc.sampleAddress.toNat) (fun _ => dmcClock_sampleAddress_ge) k s h

/-- What k bit clocks hand out: fetch addresses only, in the sample space when the first one is. -/
theorem dmcClocks_trace (k : Nat) (s : State) :
    ∃ es, (dmcClocks k s).trace = s.trace ++ es
      ∧ (0x8000 ≤ s.dmc.sampleAddress.toNat → ∀ a, Event.fetch a ∈ es → 0x8000 ≤ a.toNat) := by
  induction k generalizing s with
  | zero => exact ⟨[], (List.append_nil _).symm, by simp⟩
  | succ k ih =>
    obtain ⟨es, htrace, hes⟩ := ih (dmcClock s)
    rcases dmcClock_trace s with hclock | hclock
    · refine ⟨es, by rw [← hclock]; exact htrace, fun h => hes (dmcClock_sampleAddress_ge h)⟩
    · refine ⟨.fetch s.dmc.sampleAddress :: es, ?_, fun h a ha => ?_⟩
      · rw [dmcClocks, htrace, hclock, List.append_assoc]
        rfl
      · rcases List.mem_cons.mp ha with hfirst | hlater
        · cases hfirst
          exact h
        · exact hes (dmcClock_sampleAddress_ge h) a hlater

/-! ## The sample -/

/-- The number of bit clocks a SAMPLE.DMC runs (R217). -/
def dmcClockCount (s : State) : Nat :=
  if s.dmc.enabled then (phaseAdvance s.cfg s.dmc.phase (dmcFrequency s.cfg s.dmc)).2 else 0

/-- The state in which a SAMPLE.DMC runs its bit clocks (R217). -/
def dmcAdvance (s : State) : State :=
  s.setDmc { s.dmc with phase := (phaseAdvance s.cfg s.dmc.phase (dmcFrequency s.cfg s.dmc)).1 }

/-- The state after a SAMPLE.DMC's bit clocks (R217). -/
def dmcAfterClocks (s : State) : State := dmcClocks (dmcClockCount s) (dmcAdvance s)

/-- `SAMPLE.DMC` through the dispatch (R217). -/
theorem exec_sampleDmc (s : State) :
    exec .sampleDmc s = .next ((dmcAfterClocks s).emit (.sample .dmc (dmcOutput (dmcAfterClocks s).dmc))) :=
  execSampleDmc_eq s

/-- A sample's bit clocks leave everything but the DMC, the fetch port and what is handed out. -/
theorem dmcAfterClocks_frame (s : State) :
    dmcAfterClocks s = { s with
      dmc := (dmcAfterClocks s).dmc, mapper := (dmcAfterClocks s).mapper, trace := (dmcAfterClocks s).trace } :=
  dmcClocks_frame _ _

/-- What a SAMPLE.DMC's bit clocks hand out, as `dmcClocks_trace`. -/
theorem dmcAfterClocks_trace (s : State) :
    ∃ es, (dmcAfterClocks s).trace = s.trace ++ es
      ∧ (0x8000 ≤ s.dmc.sampleAddress.toNat → ∀ a, Event.fetch a ∈ es → 0x8000 ≤ a.toNat) :=
  dmcClocks_trace (dmcClockCount s) (dmcAdvance s)

/-- The DMC's frequency for a rate table entry (R211). -/
theorem dmcFrequency_eq {cfg : Config} {c : Dmc} {period : Nat}
    (h : cfg.dmcRateTable[c.rateIndex.toNat]? = some period) : dmcFrequency cfg c = 3579545 / 2 / period := by
  obtain ⟨_, hentry⟩ := Vector.getElem?_eq_some_iff.mp h
  rw [dmcFrequency, hentry, cpuClock]

/-- Settles O43: the state after the bit clocks, none of them while disabled. -/
theorem dmcSample : Obligations.DmcSample := by
  intro s period hperiod
  have hf := dmcFrequency_eq hperiod
  refine ⟨_, dmcAfterClocks s, exec_sampleDmc s, ?disabled, ?enabled, rfl, ?frame⟩
  case disabled =>
    intro hoff
    simp [dmcAfterClocks, dmcClockCount, dmcAdvance, hoff, dmcClocks, phaseAdvance_fst, hf]
  case enabled =>
    intro hon
    simp [dmcAfterClocks, dmcClockCount, dmcAdvance, hon, dmcClocks_eq_iterate, phaseAdvance_fst, phaseAdvance_snd, hf]
  case frame =>
    rw [dmcAfterClocks_frame]
    rfl

end Sys2Proof.Machine
end

section
/-! PROOF. The register writes and the status read (spec/40_writes_pulse.md, spec/41_writes_triangle_noise_dmc.md,
spec/42_status_and_frame_control.md): the fields of the written byte as numbers, and what each write leaves alone. -/

namespace Sys2Proof.Machine

/-! ## Fields -/

theorem dutyField_toNat (d : Byte) : (dutyField d).toNat = d.toNat / 64 := by
  have := d.isLt
  rw [dutyField, toNat_field]
  omega

theorem sweepPeriodField_toNat (d : Byte) : (sweepPeriodField d).toNat = d.toNat / 16 % 8 := toNat_field d 4 3

theorem shiftCountField_toNat (d : Byte) : (shiftCountField d).toNat = d.toNat % 8 := by
  rw [shiftCountField, toNat_field]
  omega

theorem linearReloadField_toNat (d : Byte) : (linearReloadField d).toNat = d.toNat % 128 := by
  rw [linearReloadField, toNat_field]
  omega

theorem noisePeriodField_toNat (d : Byte) : (noisePeriodField d).toNat = d.toNat % 16 := by
  rw [noisePeriodField, toNat_field]
  omega

theorem dmcRateField_toNat (d : Byte) : (dmcRateField d).toNat = d.toNat % 16 := by
  rw [dmcRateField, toNat_field]
  omega

/-- A bit of the written byte that is read as a Bool. -/
theorem getLsbD_iff_bitSet (d : Byte) (n : Nat) : d.getLsbD n = true ↔ BitSet d n := getLsbD_eq_true_iff d n

theorem getLsbD_eq_false_of_not_bitSet {d : Byte} {n : Nat} (h : ¬ BitSet d n) : d.getLsbD n = false := by
  rwa [← getLsbD_iff_bitSet, Bool.not_eq_true] at h

theorem noiseModeField_iff (d : Byte) : noiseModeField d = .short ↔ BitSet d 7 := by
  unfold noiseModeField
  by_cases h : BitSet d 7
  · rw [if_pos ((getLsbD_iff_bitSet d 7).mpr h)]
    exact iff_of_true rfl h
  · rw [if_neg (mt (getLsbD_iff_bitSet d 7).mp h)]
    exact iff_of_false nofun h

theorem frameModeField_iff (d : Byte) : frameModeField d = .fiveStep ↔ BitSet d 7 := by
  unfold frameModeField
  by_cases h : BitSet d 7
  · rw [if_pos ((getLsbD_iff_bitSet d 7).mpr h)]
    exact iff_of_true rfl h
  · rw [if_neg (mt (getLsbD_iff_bitSet d 7).mp h)]
    exact iff_of_false nofun h

/-! ## The pulse channels -/

theorem pulseControlWritten_writeControl (d : Byte) (c : Pulse) : PulseControlWritten d c (c.writeControl d) :=
  ⟨dutyField_toNat d, getLsbD_iff_bitSet d 5, getLsbD_iff_bitSet d 5, getLsbD_iff_bitSet d 4, volumeField_toNat d, rfl⟩

theorem pulseSweepWritten_writeSweep (d : Byte) (c : Pulse) : PulseSweepWritten d c (c.writeSweep d) :=
  ⟨getLsbD_iff_bitSet d 7, sweepPeriodField_toNat d, getLsbD_iff_bitSet d 3, shiftCountField_toNat d, rfl⟩

theorem pulseHighWritten_writePeriodHigh (cfg : Config) (d : Byte) (c : Pulse) :
    PulseHighWritten cfg d c (c.writePeriodHigh cfg d) :=
  ⟨withPeriodHigh_toNat c.timerPeriod d, lengthIndexField_toNat d, rfl, ⟨lengthTable_lookup cfg d, rfl⟩, rfl, rfl, rfl,
    rfl⟩

/-- Settles O9: both channels are written by `Pulse.writeControl`. -/
theorem pulseControlWrite : Obligations.PulseControlWrite := fun d s =>
  ⟨⟨_, rfl, pulseControlWritten_writeControl d s.pulse1, rfl⟩,
    ⟨_, rfl, pulseControlWritten_writeControl d s.pulse2, rfl⟩⟩

/-- Settles O10: both channels are written by `Pulse.writeSweep`. -/
theorem pulseSweepWrite : Obligations.PulseSweepWrite := fun d s =>
  ⟨⟨_, rfl, pulseSweepWritten_writeSweep d s.pulse1, rfl⟩, ⟨_, rfl, pulseSweepWritten_writeSweep d s.pulse2, rfl⟩⟩

/-- Settles O11: the period's number after the write is `withPeriodLow_toNat`'s. -/
theorem pulsePeriodLowWrite : Obligations.PulsePeriodLowWrite := fun d s =>
  ⟨⟨_, rfl, withPeriodLow_toNat s.pulse1.timerPeriod d, rfl⟩, ⟨_, rfl, withPeriodLow_toNat s.pulse2.timerPeriod d, rfl⟩⟩

/-- Settles O12: both channels are written by `Pulse.writePeriodHigh`. -/
theorem pulsePeriodHighWrite : Obligations.PulsePeriodHighWrite := fun d s =>
  ⟨⟨_, rfl, pulseHighWritten_writePeriodHigh s.cfg d s.pulse1, rfl⟩,
    ⟨_, rfl, pulseHighWritten_writePeriodHigh s.cfg d s.pulse2, rfl⟩⟩

/-! ## Triangle and noise -/

/-- Settles O13: one bit written to control flag and halt, and the reload value as a number. -/
theorem triangleControlWrite : Obligations.TriangleControlWrite := fun d _ =>
  ⟨_, rfl, getLsbD_iff_bitSet d 7, getLsbD_iff_bitSet d 7, linearReloadField_toNat d, rfl⟩

/-- Settles O15: period, index and length load as numbers; the rest is the Reset's update. -/
theorem trianglePeriodHighWrite : Obligations.TrianglePeriodHighWrite := fun d s =>
  ⟨_, rfl, withPeriodHigh_toNat s.tri.timerPeriod d, lengthIndexField_toNat d, ⟨lengthTable_lookup s.cfg d, rfl⟩, rfl⟩

/-- Settles O16: the three fields of the byte as bits and a number. -/
theorem noiseControlWrite : Obligations.NoiseControlWrite := fun d _ =>
  ⟨_, rfl, getLsbD_iff_bitSet d 5, getLsbD_iff_bitSet d 5, getLsbD_iff_bitSet d 4, volumeField_toNat d, rfl⟩

/-- Settles O17: the mode by bit 7, the index as a number. -/
theorem noisePeriodWrite : Obligations.NoisePeriodWrite := fun d _ =>
  ⟨_, rfl, noiseModeField_iff d, noisePeriodField_toNat d, rfl⟩

/-- Settles O18: index and length load as numbers; the rest is the Reset's update. -/
theorem noiseLengthWrite : Obligations.NoiseLengthWrite := fun d s =>
  ⟨_, rfl, lengthIndexField_toNat d, ⟨lengthTable_lookup s.cfg d, rfl⟩, rfl, rfl⟩

/-! ## DMC -/

/-- `W4010` through the dispatch (R138): three fields, and the flag kept by bit 7. -/
theorem exec_w4010 (d : Byte) (s : State) :
    exec (.w4010 d) s = .next (s.setDmc { s.dmc with
      irqEnable := dmcIrqEnableField d
      loopFlag := dmcLoopField d
      rateIndex := dmcRateField d
      irqFlag := s.dmc.irqFlag && dmcIrqEnableField d }) := by
  simp only [exec, execW4010, Dmc.writeControl, Dmc.clearIrq]
  cases dmcIrqEnableField d <;> simp

/-- Settles O19: the fields of `exec_w4010`, its flag by bit 7. -/
theorem dmcControlWrite : Obligations.DmcControlWrite := by
  intro d s
  have hbit : dmcIrqEnableField d = true ↔ BitSet d 7 := getLsbD_iff_bitSet d 7
  refine ⟨_, exec_w4010 d s, hbit, getLsbD_iff_bitSet d 6, dmcRateField_toNat d, fun h => ?_, fun h => ?_, rfl⟩
  · simp [hbit.mpr h]
  · have hoff : dmcIrqEnableField d = false := getLsbD_eq_false_of_not_bitSet h
    simp [hoff]

/-- Settles O20: the level field as a number. -/
theorem dmcLevelWrite : Obligations.DmcLevelWrite := by
  intro d s
  rw [← levelField_eq]
  rfl

/-- `W4015`'s DMC with bit 4 set and no byte left (R160): a restart. -/
theorem writeEnable_of_ended {c : Dmc} (h : c.bytesRemaining = 0) :
    c.writeEnable true = (dmcRestart { c with enabled := true }).clearIrq := by
  simp [Dmc.writeEnable, h]

/-- `W4015`'s DMC with bit 4 set and bytes left (R160): the sample goes on. -/
theorem writeEnable_of_running {c : Dmc} (h : c.bytesRemaining ≠ 0) :
    c.writeEnable true = Dmc.clearIrq { c with enabled := true } := by
  simp [Dmc.writeEnable, h]

/-- `W4015`'s DMC with bit 4 clear (R160): the sample is dropped. -/
theorem writeEnable_off (c : Dmc) :
    c.writeEnable false = Dmc.clearIrq { c with enabled := false, bytesRemaining := 0 } := rfl

/-- `W4015` leaves the DMC's registers, buffer and phase. -/
theorem writeEnable_eq (on : Bool) (c : Dmc) :
    c.writeEnable on = { c with
      enabled := on
      bytesRemaining := (c.writeEnable on).bytesRemaining
      sampleAddress := (c.writeEnable on).sampleAddress
      irqFlag := false } := by
  cases on with
  | false => rfl
  | true =>
    by_cases h : c.bytesRemaining = 0
    · rw [writeEnable_of_ended h]
      rfl
    · rw [writeEnable_of_running h]
      rfl

/-- Settles O21: each of the three restarts reads the start register just written. -/
theorem dmcStartWrite : Obligations.DmcStartWrite := by
  intro d s
  refine ⟨_, rfl, rfl, fun l => ⟨_, rfl, ?length⟩, fun e hbit hended => ⟨_, rfl, ?enable⟩, fun hlast hloop => ?loops⟩
  case length => exact dmcRestart_sampleAddress_toNat _
  case enable =>
    have hrestart := writeEnable_of_ended (c := { s.dmc with startReg := d }) hended
    rw [dmcEnableField, (getLsbD_iff_bitSet e 4).mpr hbit, State.setDmc_dmc, hrestart]
    exact dmcRestart_sampleAddress_toNat _
  case loops =>
    obtain ⟨b, -, hfetch⟩ := dmcFetch_cases (s.setDmc { s.dmc with startReg := d })
    have hend : (dmcLoad b { s.dmc with startReg := d }).bytesRemaining = 0 := by simp [dmcLoad, hlast]
    rw [hfetch, State.setTrace_dmc, State.setMapper_dmc, State.setDmc_dmc, State.setDmc_dmc, dmcRefill_eq_sampleEnd,
      dmcSampleEnd_of_loop hend hloop]
    exact dmcRestart_sampleAddress_toNat _

/-- Settles O22: the restart's address as a number; the rest is the Reset's update. -/
theorem dmcLengthWrite : Obligations.DmcLengthWrite := fun _ _ =>
  ⟨_, rfl, dmcRestart_sampleAddress_toNat _, rfl⟩

/-! ## Status and frame control -/

/-- Settles O24: the four arms answer the state itself. -/
theorem unlistedWritesChangeNothing : Obligations.UnlistedWritesChangeNothing := fun _ _ => ⟨rfl, rfl, rfl, rfl⟩

@[simp] theorem gate_true (l : LengthCounter) : l.gate true = l := rfl
@[simp] theorem gate_false (l : LengthCounter) : l.gate false = { l with counter := 0 } := rfl

/-- A gated counter by the bit of the written byte. -/
theorem gate_getLsbD (d : Byte) (n : Nat) (l : LengthCounter) :
    (BitSet d n → l.gate (d.getLsbD n) = l) ∧ (¬ BitSet d n → l.gate (d.getLsbD n) = { l with counter := 0 }) :=
  ⟨fun h => by rw [(getLsbD_iff_bitSet d n).mpr h, gate_true],
    fun h => by rw [getLsbD_eq_false_of_not_bitSet h, gate_false]⟩

/-- Settles O25: the counters by `gate_getLsbD`, the DMC by its three cases. -/
theorem enableWrite : Obligations.EnableWrite := by
  intro d s
  obtain ⟨hon1, hoff1⟩ := gate_getLsbD d 0 s.pulse1.len
  obtain ⟨hon2, hoff2⟩ := gate_getLsbD d 1 s.pulse2.len
  obtain ⟨hon3, hoff3⟩ := gate_getLsbD d 2 s.tri.len
  obtain ⟨hon4, hoff4⟩ := gate_getLsbD d 3 s.noise.len
  have hdmc := writeEnable_eq (d.getLsbD 4) s.dmc
  refine ⟨_, rfl, getLsbD_iff_bitSet d 0, getLsbD_iff_bitSet d 1, getLsbD_iff_bitSet d 2, getLsbD_iff_bitSet d 3,
    ?dmcEnabled, hon1, hoff1, hon2, hoff2, hon3, hoff3, hon4, hoff4, fun hoff => ?dropped, fun hon hbytes => ?running,
    fun hon hbytes => ?restarted, ?frame⟩
  case dmcEnabled =>
    rw [← getLsbD_iff_bitSet d 4, dmcEnableField, hdmc]
  case dropped =>
    rw [dmcEnableField, getLsbD_eq_false_of_not_bitSet hoff, writeEnable_off]
    exact ⟨rfl, rfl⟩
  case running =>
    rw [dmcEnableField, (getLsbD_iff_bitSet d 4).mpr hon, writeEnable_of_running hbytes]
    exact ⟨rfl, rfl⟩
  case restarted =>
    rw [dmcEnableField, (getLsbD_iff_bitSet d 4).mpr hon, writeEnable_of_ended hbytes]
    exact ⟨rfl, dmcRestart_sampleAddress_toNat _⟩
  case frame =>
    rw [dmcEnableField, hdmc]

/-- The bits of the status byte (R97). -/
theorem statusByte_getLsbD (s : State) :
    (statusByte s).getLsbD 7 = s.dmc.irqFlag ∧ (statusByte s).getLsbD 6 = s.frame.irqFlag
    ∧ (statusByte s).getLsbD 5 = false ∧ (statusByte s).getLsbD 4 = (s.dmc.bytesRemaining != 0)
    ∧ (statusByte s).getLsbD 3 = (s.noise.len.counter != 0) ∧ (statusByte s).getLsbD 2 = (s.tri.len.counter != 0)
    ∧ (statusByte s).getLsbD 1 = (s.pulse2.len.counter != 0)
    ∧ (statusByte s).getLsbD 0 = (s.pulse1.len.counter != 0) := by
  simp only [statusByte, BitVec.getLsbD_append]
  simp

/-- Settles O26: the byte bit by bit; the flag is cleared in the state the byte was sampled from. -/
theorem statusRead : Obligations.StatusRead := by
  intro s
  obtain ⟨h7, h6, h5, h4, h3, h2, h1, h0⟩ := statusByte_getLsbD s
  refine ⟨_, statusByte s, rfl, rfl, ?_, ?_, ?_, ?_, ?_, ?_, ?_, ?_, rfl⟩ <;> rw [← getLsbD_iff_bitSet]
  · rw [h7]
  · rw [h6]
  · rw [h5]
    exact Bool.false_ne_true
  · rw [h4, bne_iff_ne]
  · rw [h3, bne_iff_ne]
  · rw [h2, bne_iff_ne]
  · rw [h1, bne_iff_ne]
  · rw [h0, bne_iff_ne]

/-- `W4017` through the dispatch (R162): the frame record it leaves. -/
theorem exec_w4017 (d : Byte) (s : State) :
    exec (.w4017 d) s = .next (s.setFrame
      { cycleAccumulator := 0, step := 0, mode := frameModeField d, irqInhibit := irqInhibitField d
        irqFlag := s.frame.irqFlag && !irqInhibitField d }) := by
  simp only [exec, execW4017, FrameSequencer.clearIrq]
  cases irqInhibitField d <;> simp

/-- Settles O27: the record of `exec_w4017`, its flag by bit 6. -/
theorem frameControlWrite : Obligations.FrameControlWrite := by
  intro d s
  have hbit : irqInhibitField d = true ↔ BitSet d 6 := getLsbD_iff_bitSet d 6
  refine ⟨_, exec_w4017 d s, frameModeField_iff d, hbit, fun h => ?_, fun h => ?_, rfl, rfl, rfl⟩
  · simp [hbit.mpr h]
  · have hoff : irqInhibitField d = false := getLsbD_eq_false_of_not_bitSet h
    simp [hoff]

/-! ## Idempotence -/

theorem withPeriodHigh_idem (p : BitVec 11) (d : Byte) :
    withPeriodHigh (withPeriodHigh p d) d = withPeriodHigh p d := by
  apply BitVec.eq_of_toNat_eq
  rw [withPeriodHigh_toNat, withPeriodHigh_toNat]
  omega

theorem withPeriodLow_idem (p : BitVec 11) (d : Byte) : withPeriodLow (withPeriodLow p d) d = withPeriodLow p d := by
  apply BitVec.eq_of_toNat_eq
  have := d.isLt
  rw [withPeriodLow_toNat, withPeriodLow_toNat]
  omega

theorem writePeriodHigh_idem (cfg : Config) (d : Byte) (c : Pulse) :
    (c.writePeriodHigh cfg d).writePeriodHigh cfg d = c.writePeriodHigh cfg d := by
  simp only [Pulse.writePeriodHigh, pulseReset, withPeriodHigh_idem, envelopeRestart]

theorem writePeriodLow_idem (d : Byte) (c : Pulse) : (c.writePeriodLow d).writePeriodLow d = c.writePeriodLow d := by
  simp only [Pulse.writePeriodLow, withPeriodLow_idem]

theorem gate_idem (on : Bool) (l : LengthCounter) : (l.gate on).gate on = l.gate on := by
  cases on <;> rfl

/-- A second enable finds the sample running or dropped as the first left it. -/
theorem writeEnable_idem (on : Bool) (c : Dmc) : (c.writeEnable on).writeEnable on = c.writeEnable on := by
  cases on with
  | false => rfl
  | true =>
    by_cases h : c.bytesRemaining = 0
    · rw [writeEnable_of_ended h]
      exact writeEnable_of_running (Nat.succ_ne_zero _)
    · rw [writeEnable_of_running h]
      exact writeEnable_of_running h

/-- Settles O28: the writes that read a field they write are idempotent by the lemmas above, the others by computation;
the operations that are no writes have another kind. -/
theorem writesAreIdempotentBackToBack : Obligations.WritesAreIdempotentBackToBack := by
  intro i s hkind
  cases i
  case rd4015 | sampleP1 | sampleP2 | sampleTri | sampleNoi | sampleDmc => exact absurd hkind (by decide)
  case tick n =>
    rw [encode, kindOf_tickWord] at hkind
    exact absurd hkind (by decide)
  case w4002 d | w4006 d => exact ⟨_, rfl, by simp [exec, execW4002, execW4006, writePeriodLow_idem]⟩
  case w4003 d | w4007 d => exact ⟨_, rfl, by simp [exec, execW4003, execW4007, writePeriodHigh_idem]⟩
  case w400A d => exact ⟨_, rfl, by simp [exec, execW400A, withPeriodLow_idem]⟩
  case w400B d => exact ⟨_, rfl, by simp [exec, execW400B, triangleReset, withPeriodHigh_idem]⟩
  case w4010 d => exact ⟨_, exec_w4010 d s, by simp [exec_w4010]⟩
  case w4015 d => exact ⟨_, rfl, by simp only [exec, execW4015, gate_idem, writeEnable_idem]⟩
  case w4017 d => exact ⟨_, exec_w4017 d s, by simp [exec_w4017]⟩
  all_goals exact ⟨_, rfl, rfl⟩

end Sys2Proof.Machine
end

section
/-! PROOF. The step and the run (spec/00_scope.md R7, R8, spec/60_exceptions.md R250): every operation completes, and
issued words are applied one by one in issue order. -/

namespace Sys2Proof.Machine

/-- A number the table's decoder accepts decodes as the word that `withFetchWord` issues (log entry 9). -/
theorem decode_of_decodeTableWord {w : Nat} {i : Instr} (h : decodeTableWord 32 w = some i) :
    decode (BitVec.ofNat 27 (w % 2 ^ 32)) = .ok i := by
  unfold decodeTableWord at h
  split at h
  · generalize decode (BitVec.ofNat 27 (w % 2 ^ 32)) = r at h ⊢
    cases r with
    | ok j => cases h; rfl
    | error e => cases h
  · cases h

/-- Settles O1: the step in each of its forms; an issued table word is the oldest request. -/
theorem stepAppliesOldestOperation : Obligations.StepAppliesOldestOperation :=
  ⟨fun _ _ _ _ hp hd => step_word hp hd, fun _ _ _ hp => step_tick hp, fun _ hp => step_idle hp,
    fun s w _ h _ => step_word (s := s.withFetchWord 32 w) rfl (decode_of_decodeTableWord h)⟩

/-- An operation answers a next state, keeps the open parameters, and appends what it hands out. -/
theorem exec_cfg_trace (i : Instr) (s : State) : ∃ t es, exec i s = .next t ∧ t.cfg = s.cfg ∧ t.trace = s.trace ++ es := by
  cases i
  case tick n =>
    obtain ⟨hcfg, -, htrace, -⟩ := tickCycles_keeps n s
    exact ⟨_, [], rfl, hcfg, by rw [htrace, List.append_nil]⟩
  case sampleDmc =>
    obtain ⟨es, htrace, -⟩ := dmcAfterClocks_trace s
    refine ⟨_, es ++ [.sample .dmc (dmcOutput (dmcAfterClocks s).dmc)], exec_sampleDmc s, ?_, ?_⟩
    · rw [State.emit_cfg, dmcAfterClocks_frame]
    · rw [State.emit_trace, htrace, List.append_assoc]
  case rd4015 | sampleP1 | sampleP2 | sampleTri | sampleNoi => exact ⟨_, [_], rfl, rfl, rfl⟩
  all_goals exact ⟨_, [], rfl, rfl, (List.append_nil _).symm⟩

/-- No operation changes what is still issued. -/
theorem exec_pending {i : Instr} {s t : State} (h : exec i s = .next t) : t.pending = s.pending := by
  obtain ⟨u, hu, hset⟩ := exec_setPending i s.pending s
  have hself : exec i (s.setPending s.pending) = exec i s := rfl
  rw [hself, h] at hset
  cases hset
  rfl

/-- Settles O7: the outcome and what it hands out by `exec_cfg_trace`, what is still issued by `exec_pending`. -/
theorem everyOperationCompletes : Obligations.EveryOperationCompletes := by
  intro i s
  obtain ⟨t, es, hexec, hcfg, htrace⟩ := exec_cfg_trace i s
  exact ⟨t, hexec, hcfg, exec_pending hexec, es, htrace⟩

/-- The state in which the words of a list of operations are issued, and nothing else. -/
def issue (is : List Instr) (s : State) : State := s.setPending (is.map fun i => .word (encode i))

/-- A step applies the first of the issued operations and leaves the others issued. -/
theorem step_issue_cons {i : Instr} (is : List Instr) {s t : State} (hwf : i.wellFormed = true)
    (h : exec i (issue [] s) = .next (issue [] t)) : step (issue (i :: is) s) = .next (issue is t) := by
  obtain ⟨u, hnone, hrest⟩ := exec_setPending i (is.map fun i => .word (encode i)) (issue [] s)
  rw [h] at hnone
  cases hnone
  exact (step_word rfl (decode_encode hwf)).trans hrest

/-- Settles O8: by induction over the operations, each step one of them. -/
theorem runIsTheFoldOfOperations : Obligations.RunIsTheFoldOfOperations := by
  intro is
  induction is with
  | nil => exact fun s _ => ⟨_, rfl, rfl⟩
  | cons i is ih =>
    intro s hwf
    obtain ⟨t, -, hexec⟩ := exec_setPending i [] s
    obtain ⟨u, hfold, hrun⟩ := ih t fun j hj => hwf j (List.mem_cons_of_mem _ hj)
    have hstep : core.step (issue (i :: is) s) = .next (issue is t) :=
      step_issue_cons is (hwf i List.mem_cons_self) hexec
    refine ⟨u, by simp only [applyAll, hexec, hfold], ?_⟩
    exact (run_succ_of_next hstep).trans hrun

end Sys2Proof.Machine
end

section
/-! PROOF. TICK and the units it ticks (spec/43_frame_sequencer_and_units.md): the unit ticks by their rules, the step
count, additivity, and what TICK leaves alone. -/

namespace Sys2Proof.Machine

/-! ## The unit ticks by their rules -/

/-- A divider tick is an underflow exactly when the rule says so (R190). -/
theorem underflows_iff (conv : DividerConvention) (n : Nat) : Underflows conv n ↔ dividerTick conv n = none := by
  rcases dividerTick_cases conv n with ⟨hnone, hunder⟩ | ⟨hsome, hcount⟩
  · exact iff_of_true hunder hnone
  · refine iff_of_false ?_ (by simp [hsome])
    rintro (⟨rfl, hle⟩ | ⟨rfl, hzero⟩)
    · rcases hcount with ⟨-, h⟩ | ⟨h, -⟩ <;> [omega; cases h]
    · rcases hcount with ⟨h, -⟩ | ⟨-, h⟩ <;> [cases h; omega]

/-- `EnvelopeTick` does what R186 says. -/
theorem envelopeTicked_envelopeTick (conv : DividerConvention) (e : Envelope) :
    EnvelopeTicked conv e (envelopeTick conv e) := by
  rw [EnvelopeTicked, underflows_iff]
  rcases envelopeTick_cases conv e with ⟨hnone, htick⟩ | ⟨hsome, htick⟩
  · rw [htick]
    refine ⟨fun h => absurd hnone h, fun _ => ⟨fun hpos => ?_, fun hzero hloop => ?_, fun hzero hloop => ?_⟩⟩
    · simp [envelopeUnderflow, hpos]
    · simp [envelopeUnderflow, hzero, hloop]
    · simp [envelopeUnderflow, hzero, hloop]
  · exact ⟨fun _ => htick, fun h => by simp [hsome] at h⟩

/-- `LinearTick` does what R191 says. -/
theorem linearTicked_linearTick (k : LinearCounter) : LinearTicked k (linearTick k) := by
  refine ⟨fun h => ?_, fun h => ?_, fun h => ?_, fun h => ?_, rfl, rfl⟩
  · simp [linearTick_counter, h]
  · simp [linearTick_counter, h]
  · simp [h]
  · simp [h]

/-- `LengthTick` does what R189 says. -/
theorem lengthTicked_lengthTick (l : LengthCounter) : LengthTicked l (lengthTick l) := by
  refine ⟨fun h => ?_, fun h => ?_, lengthTick_halt l⟩
  · simp [lengthTick_counter, h]
  · simp [lengthTick_counter, h]

/-- The target over the integers: the period, less or more its shifted self (R188). -/
theorem sweepTarget_int (c : Pulse) :
    (c.sweep.negateDirection = true → (sweepTarget c : Int)
      = c.timerPeriod.toNat - (c.timerPeriod.toNat / 2 ^ c.sweep.shiftCount.toNat : Nat))
    ∧ (c.sweep.negateDirection = false → (sweepTarget c : Int)
      = c.timerPeriod.toNat + (c.timerPeriod.toNat / 2 ^ c.sweep.shiftCount.toNat : Nat)) := by
  have hle : c.timerPeriod.toNat / 2 ^ c.sweep.shiftCount.toNat ≤ c.timerPeriod.toNat := Nat.div_le_self _ _
  refine ⟨fun h => ?_, fun h => ?_⟩
  · simp only [sweepTarget, h, Nat.shiftRight_eq_div_pow, if_true]
    omega
  · simp only [sweepTarget, h, Nat.shiftRight_eq_div_pow, Bool.false_eq_true, if_false]
    omega

/-- A shift count is zero as a number when it is. -/
theorem shiftCount_toNat_eq_zero_iff (n : BitVec 3) : n.toNat = 0 ↔ n = 0 :=
  ⟨fun h => BitVec.eq_of_toNat_eq h, fun h => by rw [h]; rfl⟩

/-- `SweepTick` does what R188 says. -/
theorem sweepTicked_sweepTick (conv : DividerConvention) (c : Pulse) : SweepTicked conv c (sweepTick conv c) := by
  obtain ⟨hminus, hplus⟩ := sweepTarget_int c
  rw [SweepTicked, underflows_iff, ne_eq, shiftCount_toNat_eq_zero_iff]
  rcases sweepTick_cases conv c with ⟨hsome, htick⟩ | ⟨hnone, hgate, htick⟩ | ⟨hnone, ⟨hon, hshift, hlen⟩, hout, htick⟩
    | ⟨hnone, ⟨hon, hshift, hlen⟩, hin, htick⟩
  case inl => exact ⟨fun _ => htick, fun h => by simp [hsome] at h⟩
  case inr.inl =>
    refine ⟨fun h => absurd hnone h, fun _ => ⟨fun _ => htick, fun hon hshift hlen => ?_⟩⟩
    exact absurd ⟨hon, hshift, hlen⟩ hgate
  all_goals
    have hopen : ¬ (c.sweep.enabled = false ∨ c.sweep.shiftCount = 0 ∨ c.len.counter = 0) := by
      rintro (hoff | hzero | hzero)
      · exact Bool.false_ne_true (hoff.symm.trans hon)
      · exact hshift hzero
      · exact hlen hzero
    rw [htick]
    refine ⟨fun h => absurd hnone h, fun _ => ⟨fun h => absurd h hopen, fun _ _ _ => ⟨rfl, hminus, hplus, ?_, ?_⟩⟩⟩
  · exact fun _ => rfl
  · intro h8 h7FF
    simp only at h8 h7FF
    omega
  · intro h
    simp only at h
    omega
  · exact fun _ _ => ⟨Nat.mod_eq_of_lt (by omega), rfl⟩

/-! ## The quarter and half frame -/

/-- Settles O30: step 1 of the 4-step sequence is a quarter tick, each unit ticked by its rule. -/
theorem quarterFrameTick : Obligations.QuarterFrameTick := by
  intro s hacc hmode hstep
  obtain ⟨hfirst, -⟩ := (oneIntervalFiresTheNextStep s hacc).1 hmode
  exact ⟨_, hfirst hstep, envelopeTicked_envelopeTick _ _, envelopeTicked_envelopeTick _ _,
    envelopeTicked_envelopeTick _ _, linearTicked_linearTick _, rfl⟩

/-- Settles O31: step 2 of the 4-step sequence is a quarter and a half tick; the sweeps get the ticked counters. -/
theorem halfFrameTick : Obligations.HalfFrameTick := by
  intro s hacc hmode hstep
  obtain ⟨-, hsecond, -⟩ := (oneIntervalFiresTheNextStep s hacc).1 hmode
  have henv (c : Pulse) : (pulseHalf s.cfg.dividerConvention (pulseQuarter s.cfg.dividerConvention c)).env
      = envelopeTick s.cfg.dividerConvention c.env := sweepTick_env _ _
  refine ⟨_, lengthTick s.pulse1.len, lengthTick s.pulse2.len, hsecond hstep, lengthTicked_lengthTick _, ?sweep1,
    lengthTicked_lengthTick _, ?sweep2, lengthTicked_lengthTick _, lengthTicked_lengthTick _, rfl⟩
  case sweep1 =>
    simp only [State.setFrame_pulse1, half, quarter, henv]
    exact sweepTicked_sweepTick _ _
  case sweep2 =>
    simp only [State.setFrame_pulse2, half, quarter, henv]
    exact sweepTicked_sweepTick _ _

/-! ## The step count -/

/-- The step count goes round the five steps (R181). -/
theorem frameAfterStep_step_fiveStep {f : FrameSequencer} (hm : f.mode = .fiveStep) (hle : f.step ≤ 4) :
    (frameAfterStep f).step = if f.step = 4 then 0 else f.step + 1 := by
  have hlast : 4 ≤ f.step ↔ f.step = 4 := by omega
  simp only [frameAfterStep_fiveStep hm, hlast, apply_ite FrameSequencer.step]

/-- Round and round: a count that goes up by one and from m - 1 to 0, k times. -/
theorem iterate_frameAfterStep_step {mode : FrameMode} {m : Nat} (hm : 0 < m)
    (hround : ∀ f : FrameSequencer, f.mode = mode → f.step < m → (frameAfterStep f).step = (f.step + 1) % m) (k : Nat)
    {f : FrameSequencer} (hmode : f.mode = mode) (hlt : f.step < m) :
    (frameAfterStep^[k] f).step = (f.step + k) % m := by
  induction k generalizing f with
  | zero => exact (Nat.mod_eq_of_lt hlt).symm
  | succ k ih =>
    have hstep := hround f hmode hlt
    rw [Function.iterate_succ_apply, ih (by rw [frameAfterStep_mode, hmode]) (by rw [hstep]; exact Nat.mod_lt _ hm),
      hstep, Nat.mod_add_mod, Nat.add_assoc, Nat.add_comm 1 k]

/-- TICK's frame record is that of its frame steps, with the rest in the accumulator (R180). -/
theorem tickCycles_frame (n : Nat) (s : State) :
    (tickCycles n s).frame = { frameAfterStep^[(s.frame.cycleAccumulator + n) / 7457] s.frame with
      cycleAccumulator := (s.frame.cycleAccumulator + n) % 7457 } := by
  rw [tickCycles_eq, State.setAccumulator_frame, iterate_frameStep_frame]

/-- k frame steps leave mode and inhibit. -/
theorem iterate_frameAfterStep_keeps (k : Nat) (f : FrameSequencer) :
    (frameAfterStep^[k] f).mode = f.mode ∧ (frameAfterStep^[k] f).irqInhibit = f.irqInhibit := by
  induction k generalizing f with
  | zero => exact ⟨rfl, rfl⟩
  | succ k ih => simpa [Function.iterate_succ_apply] using ih (frameAfterStep f)

/-- Settles O32: the accumulator by `tickCycles_frame`, the count by going round, one step for each interval. -/
theorem tickAdvancesTheSequencer : Obligations.TickAdvancesTheSequencer := by
  intro n s
  obtain ⟨hmode, hinhibit⟩ := iterate_frameAfterStep_keeps ((s.frame.cycleAccumulator + n) / 7457) s.frame
  refine ⟨_, exec_tick n s, ?_⟩
  rw [tickCycles_frame]
  refine ⟨rfl, fun hm hle => ?four, fun hm hle => ?five, hmode, hinhibit⟩
  case four =>
    refine iterate_frameAfterStep_step (by decide) (fun f hf hlt => ?_) _ hm (by omega)
    rw [frameAfterStep_step_fourStep hf (by omega)]
    split <;> omega
  case five =>
    refine iterate_frameAfterStep_step (by decide) (fun f hf hlt => ?_) _ hm (by omega)
    rw [frameAfterStep_step_fiveStep hf (by omega)]
    split <;> omega

/-! ## Additivity -/

theorem tickCycles_tickCycles (a b : Nat) (s : State) : tickCycles b (tickCycles a s) = tickCycles (a + b) s := by
  have hsteps : (s.frame.cycleAccumulator + (a + b)) / 7457
      = ((s.frame.cycleAccumulator + a) % 7457 + b) / 7457 + (s.frame.cycleAccumulator + a) / 7457 := by omega
  have hrest : (s.frame.cycleAccumulator + (a + b)) % 7457
      = ((s.frame.cycleAccumulator + a) % 7457 + b) % 7457 := by omega
  rw [tickCycles_eq (a + b), hsteps, hrest, Function.iterate_add_apply, tickCycles_eq b, tickCycles_eq a,
    State.setAccumulator_frame, iterate_frameStep_setAccumulator, State.setAccumulator_setAccumulator]

theorem tickCycles_zero {s : State} (h : s.frame.cycleAccumulator < 7457) : tickCycles 0 s = s := by
  rw [tickCycles_eq, Nat.add_zero, Nat.div_eq_of_lt h, Nat.mod_eq_of_lt h]
  rfl

/-- Settles O34: the intervals of both counts add up, the rest of the first being carried into the second. -/
theorem tickIsAdditive : Obligations.TickIsAdditive := by
  refine ⟨fun a b s => ⟨_, exec_tick a s, ?_⟩, fun s h => ?_⟩
  · rw [exec_tick, exec_tick, tickCycles_tickCycles]
  · rw [exec_tick, tickCycles_zero h]

/-! ## What TICK leaves alone -/

/-- A pulse channel c with the fields that ticks change taken from c'. -/
def Pulse.withTicked (c' c : Pulse) : Pulse :=
  { c with
    timerPeriod := c'.timerPeriod
    len := { c.len with counter := c'.len.counter }
    env := { c.env with decayCounter := c'.env.decayCounter, divider := c'.env.divider }
    sweep := { c.sweep with divider := c'.sweep.divider, targetPeriod := c'.sweep.targetPeriod } }

/-- The state s with the fields that ticks change taken from t. -/
def State.withTicked (t s : State) : State :=
  { s with
    pulse1 := t.pulse1.withTicked s.pulse1
    pulse2 := t.pulse2.withTicked s.pulse2
    tri := { s.tri with
      len := { s.tri.len with counter := t.tri.len.counter }
      lin := { s.tri.lin with counter := t.tri.lin.counter, reloadFlag := t.tri.lin.reloadFlag } }
    noise := { s.noise with
      len := { s.noise.len with counter := t.noise.len.counter }
      env := { s.noise.env with decayCounter := t.noise.env.decayCounter, divider := t.noise.env.divider } }
    frame := { s.frame with
      cycleAccumulator := t.frame.cycleAccumulator, step := t.frame.step, irqFlag := t.frame.irqFlag } }

/-- From s to t only the fields that ticks change differ. -/
def State.OnlyTicked (s t : State) : Prop := t = t.withTicked s

theorem State.OnlyTicked.refl (s : State) : s.OnlyTicked s := rfl

theorem State.OnlyTicked.trans {s t u : State} (hst : s.OnlyTicked t) (htu : t.OnlyTicked u) : s.OnlyTicked u :=
  calc u = u.withTicked t := htu
    _ = u.withTicked (t.withTicked s) := congrArg u.withTicked hst
    _ = u.withTicked s := rfl

theorem pulseQuarter_onlyTicked (conv : DividerConvention) (c : Pulse) :
    pulseQuarter conv c = (pulseQuarter conv c).withTicked c :=
  congrArg (fun e => { c with env := e }) (envelopeTick_eq conv c.env)

theorem sweepTick_onlyTicked (conv : DividerConvention) (c : Pulse) :
    sweepTick conv c = (sweepTick conv c).withTicked c := by
  rcases sweepTick_cases conv c with ⟨-, h⟩ | ⟨-, -, h⟩ | ⟨-, -, -, h⟩ | ⟨-, -, -, h⟩ <;> rw [h] <;> rfl

theorem pulseHalf_onlyTicked (conv : DividerConvention) (c : Pulse) :
    pulseHalf conv c = (pulseHalf conv c).withTicked c :=
  calc pulseHalf conv c
    _ = (pulseHalf conv c).withTicked { c with len := lengthTick c.len } := sweepTick_onlyTicked conv _
    _ = (pulseHalf conv c).withTicked { c with len := { c.len with counter := (lengthTick c.len).counter } } :=
      congrArg (fun l => (pulseHalf conv c).withTicked { c with len := l }) (lengthTick_eq c.len)

theorem quarter_onlyTicked (s : State) : s.OnlyTicked (quarter s) := by
  have h1 := pulseQuarter_onlyTicked s.cfg.dividerConvention s.pulse1
  have h2 := pulseQuarter_onlyTicked s.cfg.dividerConvention s.pulse2
  have hn := envelopeTick_eq s.cfg.dividerConvention s.noise.env
  simp only [State.OnlyTicked, State.withTicked, quarter, ← h1, ← h2, ← hn]
  rfl

theorem half_onlyTicked (s : State) : s.OnlyTicked (half s) := by
  have h1 := pulseHalf_onlyTicked s.cfg.dividerConvention s.pulse1
  have h2 := pulseHalf_onlyTicked s.cfg.dividerConvention s.pulse2
  have ht := lengthTick_eq s.tri.len
  have hn := lengthTick_eq s.noise.len
  simp only [State.OnlyTicked, State.withTicked, half, ← h1, ← h2, ← ht, ← hn]

theorem setFrame_frameAfterStep_onlyTicked (s : State) : s.OnlyTicked (s.setFrame (frameAfterStep s.frame)) := by
  have h := frameAfterStep_eq s.frame
  have hacc := frameAfterStep_cycleAccumulator s.frame
  simp only [State.OnlyTicked, State.withTicked, State.setFrame_frame, hacc, ← h]
  rfl

theorem frameStep_onlyTicked (s : State) : s.OnlyTicked (frameStep s) := by
  rcases frameStep_cases s with h | h | h <;> rw [h]
  · exact setFrame_frameAfterStep_onlyTicked s
  · exact (quarter_onlyTicked s).trans (setFrame_frameAfterStep_onlyTicked (quarter s))
  · exact ((quarter_onlyTicked s).trans (half_onlyTicked _)).trans
      (setFrame_frameAfterStep_onlyTicked (half (quarter s)))

theorem tickCycles_onlyTicked (n : Nat) (s : State) : s.OnlyTicked (tickCycles n s) :=
  tickCycles_induction (P := s.OnlyTicked) (fun t ht => ht.trans (frameStep_onlyTicked t)) (fun _ _ ht => ht.trans rfl)
    n s (.refl s)

/-- Settles O35: the record equation is `State.OnlyTicked`, which every frame step keeps. -/
theorem tickLeavesTheSampleSideAlone : Obligations.TickLeavesTheSampleSideAlone := fun n s =>
  ⟨_, exec_tick n s, tickCycles_onlyTicked n s⟩

/-! ## The envelope's period -/

/-- Envelope ticks short of an underflow count the divider down. -/
theorem iterate_envelopeTick_countdown (conv : DividerConvention) (k : Nat) (e : Envelope)
    (h : ∀ j < k, dividerTick conv (e.divider - j) ≠ none) :
    (envelopeTick conv)^[k] e = { e with divider := e.divider - k } := by
  induction k with
  | zero => rfl
  | succ k ih =>
    rw [Function.iterate_succ_apply', ih fun j hj => h j (by omega)]
    rcases envelopeTick_cases conv { e with divider := e.divider - k } with ⟨hnone, -⟩ | ⟨-, htick⟩
    · exact absurd hnone (h k (by omega))
    · rw [htick]
      rfl

/-- The tick at an underflow, from a positive decay counter: one less, and the divider reloaded. -/
theorem envelopeTick_of_underflow {conv : DividerConvention} {e : Envelope} (hnone : dividerTick conv e.divider = none)
    (hdecay : 0 < e.decayCounter) :
    envelopeTick conv e = { e with divider := e.volume.toNat + 1, decayCounter := e.decayCounter - 1 } := by
  obtain ⟨-, hunder⟩ := envelopeTicked_envelopeTick conv e
  obtain ⟨hpositive, -⟩ := hunder ((underflows_iff conv _).mpr hnone)
  exact hpositive hdecay

/-- A whole period: k ticks short of the underflow, and the underflow. -/
theorem iterate_envelopeTick_period {conv : DividerConvention} {k : Nat} {e : Envelope}
    (hreloaded : e.divider = e.volume.toNat + 1) (hdecay : 0 < e.decayCounter)
    (hcount : ∀ j < k, dividerTick conv (e.divider - j) ≠ none) (hunder : dividerTick conv (e.divider - k) = none) :
    (envelopeTick conv)^[k + 1] e = { e with decayCounter := e.decayCounter - 1 } := by
  rw [Function.iterate_succ_apply', iterate_envelopeTick_countdown conv k e hcount,
    envelopeTick_of_underflow (e := { e with divider := e.divider - k }) hunder hdecay, ← hreloaded]

/-- Settles O36: a divider underflows at 1 under the one convention and at 0 under the other. -/
theorem envelopePeriod : Obligations.EnvelopePeriod := by
  intro e hreloaded hdecay
  constructor
  · refine iterate_envelopeTick_period hreloaded hdecay (fun j hj => ?_) ?_
    · rw [ne_eq, ← underflows_iff]
      rintro (⟨-, hle⟩ | ⟨hconv, -⟩) <;> [omega; cases hconv]
    · rw [← underflows_iff]
      exact .inl ⟨rfl, by omega⟩
  · refine iterate_envelopeTick_period hreloaded hdecay (fun j hj => ?_) ?_
    · rw [ne_eq, ← underflows_iff]
      rintro (⟨hconv, -⟩ | ⟨-, hzero⟩) <;> [cases hconv; omega]
    · rw [← underflows_iff]
      exact .inr ⟨rfl, by omega⟩

end Sys2Proof.Machine
end

section
/-! PROOF. The synthesizers (spec/44_synthesizers.md sections 1 to 4 and 6): the sample clock, the outputs of pulse,
triangle and noise, and the range of the mix. -/

namespace Sys2Proof.Machine

/-! ## The sample clock -/

/-- Settles O37: a nonnegative sum is its floor and its fractional part. -/
theorem phaseAdvanceCountsWraps : Obligations.PhaseAdvanceCountsWraps := by
  intro cfg ph f hfs hph hf
  refine ⟨?_, phaseAdvance_nonneg cfg ph f, phaseAdvance_lt_one cfg ph f⟩
  have hsum : 0 ≤ ph + f / cfg.fs := add_nonneg hph (div_nonneg hf hfs.le)
  have hwraps : ((⌊ph + f / cfg.fs⌋.toNat : Nat) : Rat) = (⌊ph + f / cfg.fs⌋ : Int) := by
    exact_mod_cast Int.toNat_of_nonneg (Int.floor_nonneg.mpr hsum)
  rw [phaseAdvance_fst, phaseAdvance_snd, hwraps, Int.fract_add_floor]

/-! ## Pulse -/

theorem envelopeVolume_eq {e : Envelope} {v : Nat} (h : VolumeIs e v) : envelopeVolume e = v := by
  obtain ⟨hconstant, hdecay⟩ := h
  cases hc : e.constantVolume with
  | true => simp [envelopeVolume, hc, hconstant hc]
  | false => simp [envelopeVolume, hc, hdecay hc]

/-- The duty table has one entry for each duty index (R104). -/
theorem dutyThreshold_eq {c : Pulse} {q : Rat} (h : DutyIs c.duty q) : c.dutyThreshold = q := by
  rcases h with ⟨hd, rfl⟩ | ⟨hd, rfl⟩ | ⟨hd, rfl⟩ | ⟨hd, rfl⟩ <;> simp only [Pulse.dutyThreshold, hd] <;> rfl

theorem Pulse.active_iff (c : Pulse) : c.active = true ↔ c.enabled = true ∧ c.len.counter ≠ 0 := by
  simp [Pulse.active]

/-- An inactive pulse channel is silent (R214, R222). -/
theorem pulseOutput_of_closed {c : Pulse} (h : c.enabled = false ∨ c.len.counter = 0) : pulseOutput c = 0 := by
  refine if_neg fun hactive => ?_
  obtain ⟨hon, hlen⟩ := c.active_iff.mp hactive
  rcases h with h | h
  · exact Bool.false_ne_true (h.symm.trans hon)
  · exact hlen h

/-- The output of an active pulse channel on either side of its duty (R214). -/
theorem pulseOutput_of_active {c : Pulse} (hon : c.enabled = true) (hlen : c.len.counter ≠ 0) :
    pulseOutput c = if c.phase < c.dutyThreshold then (envelopeVolume c.env : Rat) / 15
      else -((envelopeVolume c.env : Rat) / 15) :=
  if_pos (c.active_iff.mpr ⟨hon, hlen⟩)

/-- `PulseSample` does what R214 says. -/
theorem pulseSampled_pulseAdvance (cfg : Config) (c : Pulse) :
    PulseSampled cfg c (pulseAdvance cfg c) (pulseOutput (pulseAdvance cfg c)) := by
  refine ⟨rfl, fun h => pulseOutput_of_closed (c := pulseAdvance cfg c) h, fun hon hlen v q hv hq => ?_⟩
  have hvolume : envelopeVolume (pulseAdvance cfg c).env = v := envelopeVolume_eq (e := c.env) hv
  have hduty : (pulseAdvance cfg c).dutyThreshold = q := dutyThreshold_eq (c := pulseAdvance cfg c) hq
  rw [pulseOutput_of_active (c := pulseAdvance cfg c) hon hlen, hvolume, hduty]
  exact ⟨fun hlt => if_pos hlt, fun hle => by rw [if_neg (not_lt.mpr hle), neg_div]⟩

/-- Settles O38: both channels are sampled by `pulseAdvance` and `pulseOutput`. -/
theorem pulseSample : Obligations.PulseSample := fun s =>
  ⟨⟨_, _, rfl, pulseSampled_pulseAdvance s.cfg s.pulse1, rfl⟩,
    ⟨_, _, rfl, pulseSampled_pulseAdvance s.cfg s.pulse2, rfl⟩⟩

/-! ## Triangle -/

theorem Triangle.active_iff (t : Triangle) :
    t.active = true ↔ t.enabled = true ∧ t.len.counter ≠ 0 ∧ t.lin.counter ≠ 0 := by
  simp [Triangle.active, and_assoc]

theorem triangleOutput_of_closed {t : Triangle} (h : t.enabled = false ∨ t.len.counter = 0 ∨ t.lin.counter = 0) :
    triangleOutput t = 0 := by
  refine if_neg fun hactive => ?_
  obtain ⟨hon, hlen, hlin⟩ := t.active_iff.mp hactive
  rcases h with h | h | h
  · exact Bool.false_ne_true (h.symm.trans hon)
  · exact hlen h
  · exact hlin h

theorem triangleOutput_of_active {t : Triangle} (hon : t.enabled = true) (hlen : t.len.counter ≠ 0)
    (hlin : t.lin.counter ≠ 0) : triangleOutput t = 1 - 4 * |t.phase - 1 / 2| :=
  if_pos (t.active_iff.mpr ⟨hon, hlen, hlin⟩)

/-- Settles O39: the ramp's absolute value on either side of phase 1/2. -/
theorem triangleSample : Obligations.TriangleSample := by
  intro s
  refine ⟨_, _, rfl, rfl, fun h => triangleOutput_of_closed (t := triangleAdvance s.cfg s.tri) h,
    fun hon hlen hlin => ?_⟩
  rw [triangleOutput_of_active (t := triangleAdvance s.cfg s.tri) hon hlen hlin, State.emit_tri, State.setTri_tri]
  generalize (triangleAdvance s.cfg s.tri).phase = ph
  constructor
  · intro hle
    rw [abs_of_nonpos (by linarith)]
    ring
  · intro hge
    rw [abs_of_nonneg (by linarith)]
    ring

/-! ## The shift register -/

/-- The bit that the feedback compares with bit 0, as a divisor (R216). -/
def tapDivisor : NoiseMode → Nat
  | .long => 2
  | .short => 2 ^ 6

/-- One step of the shift register on its number (R216). -/
def lfsrNumber (mode : NoiseMode) (x : Nat) : Nat := (x % 2 + x / tapDivisor mode % 2) % 2 * 16384 + x / 2

theorem lfsrStep_toNat_eq (mode : NoiseMode) (r : BitVec 15) : (lfsrStep mode r).toNat = lfsrNumber mode r.toNat := by
  have hxor (a b : Nat) : (decide (a % 2 = 1) ^^ decide (b % 2 = 1)).toNat = (a % 2 + b % 2) % 2 := by
    rcases Nat.mod_two_eq_zero_or_one a with ha | ha <;> rcases Nat.mod_two_eq_zero_or_one b with hb | hb <;>
      simp [ha, hb]
  rw [lfsrStep_toNat]
  cases mode <;> simp only [getLsbD_eq_decide, hxor, pow_zero, Nat.div_one, pow_one, lfsrNumber, tapDivisor]

/-- Settles O41: the shift and the feedback are the two parts of `lfsrNumber`. -/
theorem lfsrStepShiftsAndFeedsBack : Obligations.LfsrStepShiftsAndFeedsBack := by
  intro mode r
  have hr := r.isLt
  have hzero (x : BitVec 15) : x = 0 ↔ x.toNat = 0 := BitVec.toNat_inj.symm
  rw [hzero, hzero, lfsrStep_toNat_eq]
  refine ⟨?shift, ?feedback, fun h => ?fromZero, fun h => by simp [lfsrNumber, h]⟩
  case shift =>
    unfold lfsrNumber
    omega
  case feedback => cases mode <;> simp only [lfsrNumber, tapDivisor] <;> omega
  case fromZero =>
    have hle : r.toNat ≤ 1 := by
      unfold lfsrNumber at h
      omega
    rcases Nat.le_one_iff_eq_zero_or_eq_one.mp hle with h0 | h1
    · exact h0
    · rw [h1] at h
      exact absurd h (by cases mode <;> decide)

/-- A step keeps a nonzero register nonzero. -/
theorem lfsrSteps_ne_zero (mode : NoiseMode) (k : Nat) {r : BitVec 15} (h : r ≠ 0) : lfsrSteps mode k r ≠ 0 := by
  induction k generalizing r with
  | zero => exact h
  | succ k ih =>
    obtain ⟨-, -, hzero⟩ := lfsrStepShiftsAndFeedsBack mode r
    exact ih (mt hzero.mp h)

/-- k steps of the shift register on its number. -/
theorem lfsrSteps_toNat (mode : NoiseMode) (k : Nat) (r : BitVec 15) :
    (lfsrSteps mode k r).toNat = (lfsrNumber mode)^[k] r.toNat := by
  rw [lfsrSteps_eq_iterate]
  exact Function.Semiconj.iterate_right (f := BitVec.toNat) (lfsrStep_toNat_eq mode) k r

/-! ## The register's periods -/

/-- A point's minimal period is n when n is a period and no n / p, p a prime factor of n, is one. -/
theorem minimalPeriod_eq_of_prime_factors {α : Type} {f : α → α} {x : α} {n : Nat}
    (hperiod : Function.IsPeriodicPt f n x)
    (hfactor : ∀ p, p.Prime → p ∣ n → ¬ Function.IsPeriodicPt f (n / p) x) : Function.minimalPeriod f x = n := by
  obtain ⟨m, hm⟩ := hperiod.minimalPeriod_dvd
  by_contra hne
  have hm1 : m ≠ 1 := by
    rintro rfl
    exact hne (by rw [hm, mul_one])
  obtain ⟨p, hp, q, rfl⟩ := Nat.exists_prime_and_dvd hm1
  refine hfactor p hp ⟨Function.minimalPeriod f x * q, by rw [hm]; ring⟩ ?_
  have hq : n / p = Function.minimalPeriod f x * q := by
    rw [hm, Nat.mul_left_comm, Nat.mul_div_cancel_left _ hp.pos]
  rw [hq]
  exact (Function.isPeriodicPt_minimalPeriod f x).mul_const q

/-- No smaller positive number of steps is a period, when the minimal period is n. -/
theorem lfsrSteps_ne_of_lt {mode : NoiseMode} {n : Nat} {r : BitVec 15}
    (h : Function.minimalPeriod (lfsrStep mode) r = n) (k : Nat) (hk : 0 < k) (hlt : k < n) :
    lfsrSteps mode k r ≠ r := by
  rw [lfsrSteps_eq_iterate]
  intro hperiod
  have := Function.IsPeriodicPt.minimalPeriod_le hk hperiod
  omega

/-- The long sequence from state 1 at the multiples of 4681 = 32767 / 7 steps: round to state 1 at the seventh. -/
theorem lfsrNumber_long_sevenths :
    (lfsrNumber .long)^[4681] 1 = 19560 ∧ (lfsrNumber .long)^[4681] 19560 = 16064
    ∧ (lfsrNumber .long)^[4681] 16064 = 19561 ∧ (lfsrNumber .long)^[4681] 19561 = 29352
    ∧ (lfsrNumber .long)^[4681] 29352 = 29353 ∧ (lfsrNumber .long)^[4681] 29353 = 16065
    ∧ (lfsrNumber .long)^[4681] 16065 = 1 := by
  decide +kernel

/-- The long sequence from state 1 is elsewhere after 32767 / 31 and 32767 / 151 steps. -/
theorem lfsrNumber_long_other_factors : (lfsrNumber .long)^[1057] 1 ≠ 1 ∧ (lfsrNumber .long)^[217] 1 ≠ 1 := by
  decide +kernel

/-- The short sequence from state 1 comes round after 93 steps, and not after 93 / 3 or 93 / 31. -/
theorem lfsrNumber_short :
    (lfsrNumber .short)^[93] 1 = 1 ∧ (lfsrNumber .short)^[31] 1 ≠ 1 ∧ (lfsrNumber .short)^[3] 1 ≠ 1 := by
  decide +kernel

/-- A number of steps is a period of the register at state 1 when it is one of its number. -/
theorem isPeriodicPt_lfsrStep_iff (mode : NoiseMode) (k : Nat) :
    Function.IsPeriodicPt (lfsrStep mode) k 1 ↔ (lfsrNumber mode)^[k] 1 = 1 := by
  have hnumber := lfsrSteps_toNat mode k 1
  rw [Function.IsPeriodicPt, Function.IsFixedPt, ← lfsrSteps_eq_iterate, ← BitVec.toNat_inj, hnumber]
  rfl

theorem minimalPeriod_lfsrStep_long : Function.minimalPeriod (lfsrStep .long) 1 = 32767 := by
  obtain ⟨h1, h2, h3, h4, h5, h6, h7⟩ := lfsrNumber_long_sevenths
  obtain ⟨hthirtyfirst, h151⟩ := lfsrNumber_long_other_factors
  refine minimalPeriod_eq_of_prime_factors ?_ fun p hp hdvd => ?_
  · rw [isPeriodicPt_lfsrStep_iff, show 32767 = 4681 + (4681 + (4681 + (4681 + (4681 + (4681 + 4681))))) from rfl]
    simp only [Function.iterate_add_apply, h1, h2, h3, h4, h5, h6, h7]
  · rw [isPeriodicPt_lfsrStep_iff]
    rw [show 32767 = 7 * (31 * 151) from rfl, hp.dvd_mul, hp.dvd_mul,
      Nat.prime_dvd_prime_iff_eq hp (by norm_num), Nat.prime_dvd_prime_iff_eq hp (by norm_num),
      Nat.prime_dvd_prime_iff_eq hp (by norm_num)] at hdvd
    rcases hdvd with rfl | rfl | rfl
    · rw [show 32767 / 7 = 4681 from rfl, h1]
      decide
    · exact hthirtyfirst
    · exact h151

theorem minimalPeriod_lfsrStep_short : Function.minimalPeriod (lfsrStep .short) 1 = 93 := by
  obtain ⟨hround, hthird, hthirtyfirst⟩ := lfsrNumber_short
  refine minimalPeriod_eq_of_prime_factors ((isPeriodicPt_lfsrStep_iff _ _).mpr hround) fun p hp hdvd => ?_
  rw [isPeriodicPt_lfsrStep_iff]
  rw [show 93 = 3 * 31 from rfl, hp.dvd_mul, Nat.prime_dvd_prime_iff_eq hp (by norm_num),
    Nat.prime_dvd_prime_iff_eq hp (by norm_num)] at hdvd
  rcases hdvd with rfl | rfl
  · exact hthird
  · exact hthirtyfirst

/-- Settles O42: the two minimal periods, each a period none of whose quotients by a prime factor is one. -/
theorem lfsrPeriods : Obligations.LfsrPeriods := by
  refine ⟨?_, lfsrSteps_ne_of_lt minimalPeriod_lfsrStep_long, ?_, lfsrSteps_ne_of_lt minimalPeriod_lfsrStep_short⟩
  · rw [lfsrSteps_eq_iterate, ← minimalPeriod_lfsrStep_long]
    exact Function.isPeriodicPt_minimalPeriod _ _
  · rw [lfsrSteps_eq_iterate, ← minimalPeriod_lfsrStep_short]
    exact Function.isPeriodicPt_minimalPeriod _ _

/-! ## Noise -/

/-- The noise channel's frequency for a period table entry (R211). -/
theorem noiseFrequency_eq {cfg : Config} {n : Noise} {period : Nat}
    (h : cfg.noisePeriodTable[n.periodIndex.toNat]? = some period) : noiseFrequency cfg n = 3579545 / 2 / period := by
  obtain ⟨_, hentry⟩ := Vector.getElem?_eq_some_iff.mp h
  rw [noiseFrequency, hentry, cpuClock]

theorem Noise.active_iff (n : Noise) : n.active = true ↔ n.enabled = true ∧ n.len.counter ≠ 0 := by
  simp [Noise.active]

theorem noiseOutput_of_closed {n : Noise} (h : n.enabled = false ∨ n.len.counter = 0 ∨ n.lfsr.toNat % 2 = 1) :
    noiseOutput n = 0 := by
  by_cases hactive : n.active = true
  · obtain ⟨hon, hlen⟩ := n.active_iff.mp hactive
    have hbit : n.lfsr.toNat % 2 = 1 := by
      rcases h with h | h | h
      · exact absurd (h.symm.trans hon) Bool.false_ne_true
      · exact absurd h hlen
      · exact h
    rw [noiseOutput, if_pos hactive, if_pos (by rw [getLsbD_zero_eq, hbit]; rfl)]
  · exact if_neg hactive

theorem noiseOutput_of_active {n : Noise} (hon : n.enabled = true) (hlen : n.len.counter ≠ 0)
    (hbit : n.lfsr.toNat % 2 = 0) : noiseOutput n = (envelopeVolume n.env : Rat) / 15 := by
  have hlow : ¬ n.lfsr.getLsbD 0 = true := by
    rw [getLsbD_zero_eq, hbit]
    decide
  rw [noiseOutput, if_pos (n.active_iff.mpr ⟨hon, hlen⟩), if_neg hlow]

/-- The noise channel after its advance, the frequency written out. -/
theorem noiseAdvance_eq {cfg : Config} {n : Noise} {period : Nat}
    (h : cfg.noisePeriodTable[n.periodIndex.toNat]? = some period) :
    noiseAdvance cfg n = { n with
      phase := Int.fract (n.phase + 3579545 / 2 / period / cfg.fs)
      lfsr := (lfsrStep n.mode)^[⌊n.phase + 3579545 / 2 / period / cfg.fs⌋.toNat] n.lfsr } := by
  simp only [noiseAdvance, phaseAdvance_fst, phaseAdvance_snd, lfsrSteps_eq_iterate, noiseFrequency_eq h]

/-- Settles O40: the advance by `noiseAdvance_eq`, the value by gates and output bit. -/
theorem noiseSample : Obligations.NoiseSample := by
  intro s period hperiod
  refine ⟨_, noiseOutput (noiseAdvance s.cfg s.noise), rfl, ?_,
    fun h => noiseOutput_of_closed (n := noiseAdvance s.cfg s.noise) h, fun hon hlen hbit v hv => ?_⟩
  · rw [← noiseAdvance_eq hperiod]
    rfl
  · rw [noiseOutput_of_active (n := noiseAdvance s.cfg s.noise) hon hlen hbit]
    exact congrArg (fun v : Nat => (v : Rat) / 15) (envelopeVolume_eq (e := s.noise.env) hv)

/-! ## The ranges of the outputs -/

/-- A volume over 15 lies in [0, 1]. -/
theorem envelopeVolume_div_range {conv : DividerConvention} {e : Envelope} (h : e.InRange conv) :
    (0 : Rat) ≤ (envelopeVolume e : Rat) / 15 ∧ (envelopeVolume e : Rat) / 15 ≤ 1 := by
  obtain ⟨hdecay, -⟩ := h
  have hvolume := e.volume.isLt
  have hle : envelopeVolume e ≤ 15 := by
    unfold envelopeVolume
    split <;> omega
  have hle' : (envelopeVolume e : Rat) ≤ 15 := by exact_mod_cast hle
  exact ⟨by positivity, by linarith⟩

theorem pulseOutput_range {conv : DividerConvention} {c : Pulse} (h : c.Safe conv) :
    -1 ≤ pulseOutput c ∧ pulseOutput c ≤ 1 := by
  obtain ⟨henv, -⟩ := h
  obtain ⟨hlo, hhi⟩ := envelopeVolume_div_range henv
  unfold pulseOutput
  split
  · split <;> constructor <;> linarith
  · norm_num

theorem triangleOutput_range {t : Triangle} (h : t.Safe) : -1 ≤ triangleOutput t ∧ triangleOutput t ≤ 1 := by
  obtain ⟨-, -, ⟨hlo, hhi⟩, -⟩ := h
  have habs : |t.phase - 1 / 2| ≤ 1 / 2 := abs_le.mpr ⟨by linarith, by linarith⟩
  have hnonneg := abs_nonneg (t.phase - 1 / 2)
  unfold triangleOutput
  split
  · constructor <;> linarith
  · norm_num

theorem noiseOutput_range {conv : DividerConvention} {n : Noise} (h : n.Safe conv) :
    0 ≤ noiseOutput n ∧ noiseOutput n ≤ 1 := by
  obtain ⟨henv, -⟩ := h
  unfold noiseOutput
  split
  · split
    · norm_num
    · exact envelopeVolume_div_range henv
  · norm_num

theorem dmcOutput_range {d : Dmc} (h : d.Safe) : -1 ≤ dmcOutput d ∧ dmcOutput d ≤ 63 / 64 := by
  obtain ⟨-, -, hlevel, -⟩ := h
  have hlo : (0 : Rat) ≤ d.outputLevel := Nat.cast_nonneg _
  have hhi : (d.outputLevel : Rat) ≤ 127 := by exact_mod_cast hlevel
  unfold dmcOutput
  constructor <;> linarith

/-- Settles O47: each output by its unit's clause of the invariant; the mix is their sum. -/
theorem outputsAndMixInRange : Obligations.OutputsAndMixInRange := by
  rintro s ⟨-, hp1, hp2, htri, hnoise, hdmc, -⟩
  obtain ⟨hlo1, hhi1⟩ := pulseOutput_range hp1
  obtain ⟨hlo2, hhi2⟩ := pulseOutput_range hp2
  obtain ⟨hlo3, hhi3⟩ := triangleOutput_range htri
  obtain ⟨hlo4, hhi4⟩ := noiseOutput_range hnoise
  obtain ⟨hlo5, hhi5⟩ := dmcOutput_range hdmc
  refine ⟨⟨hlo1, hhi1⟩, ⟨hlo2, hhi2⟩, ⟨hlo3, hhi3⟩, ⟨hlo4, hhi4⟩, ⟨hlo5, hhi5⟩, ?_, ?_⟩
  · unfold mix
    linarith
  · unfold mix
    linarith

end Sys2Proof.Machine
end

section
/-! PROOF. Rules over all operations (spec/60_exceptions.md, spec/20_memory.md section 3, spec/10_state.md section 3):
the fetched addresses, the interrupt flags, the length counters, who writes what, and the two pulse channels as one
design. -/

namespace Sys2Proof.Machine

/-! ## The fetched addresses -/

theorem writeEnable_sampleAddress_ge (on : Bool) {c : Dmc} (h : 0x8000 ≤ c.sampleAddress.toNat) :
    0x8000 ≤ (c.writeEnable on).sampleAddress.toNat := by
  cases on with
  | false => exact h
  | true =>
    by_cases hbytes : c.bytesRemaining = 0
    · rw [writeEnable_of_ended hbytes]
      change _ ≤ (dmcRestart _).sampleAddress.toNat
      rw [dmcRestart_sampleAddress_toNat]
      omega
    · rw [writeEnable_of_running hbytes]
      exact h

/-- Settles O46: SAMPLE.DMC by its bit clocks; the other operations hand out no fetch, and move the address only by a
restart. -/
theorem fetchesStayInTheSampleSpace : Obligations.FetchesStayInTheSampleSpace := by
  intro i s h
  cases i
  case sampleDmc =>
    obtain ⟨es, htrace, hes⟩ := dmcAfterClocks_trace s
    refine ⟨_, es ++ [.sample .dmc (dmcOutput (dmcAfterClocks s).dmc)], exec_sampleDmc s, ?_, ?_, fun a ha => ⟨rfl, ?_⟩⟩
    · rw [State.emit_trace, htrace, List.append_assoc]
    · exact dmcClocks_sampleAddress_ge _ (s := dmcAdvance s) h
    · exact hes h a (by simpa using ha)
  case tick n =>
    obtain ⟨-, -, htrace, hdmc, -⟩ := tickCycles_keeps n s
    exact ⟨_, [], rfl, by rw [htrace, List.append_nil], hdmc ▸ h, by simp⟩
  case w4010 d =>
    exact ⟨_, [], exec_w4010 d s, (List.append_nil _).symm, h, by simp⟩
  case w4013 d =>
    refine ⟨_, [], rfl, (List.append_nil _).symm, ?_, by simp⟩
    have haddr := dmcRestart_sampleAddress_toNat { s.dmc with lengthReg := d, phase := 0 }
    exact haddr ▸ Nat.le_add_right_of_le (by decide)
  case w4015 d =>
    exact ⟨_, [], rfl, (List.append_nil _).symm, writeEnable_sampleAddress_ge _ h, by simp⟩
  case rd4015 | sampleP1 | sampleP2 | sampleTri | sampleNoi => exact ⟨_, [_], rfl, rfl, h, by simp⟩
  all_goals exact ⟨_, [], rfl, (List.append_nil _).symm, h, by simp⟩

/-! ## The DMC IRQ flag -/

/-- A refill keeps the flag, or sets it: then the IRQ is enabled and the sample does not loop (R219). -/
theorem dmcRefill_irqFlag (b : Byte) (c : Dmc) :
    (dmcRefill b c).irqFlag = c.irqFlag
    ∨ ((dmcRefill b c).irqFlag = true ∧ c.irqEnable = true ∧ c.loopFlag = false) := by
  rw [dmcRefill_eq_sampleEnd]
  rcases dmcSampleEnd_cases (dmcLoad b c) with ⟨-, h⟩ | ⟨-, -, h⟩ | ⟨-, hloop, henable, h⟩ | ⟨-, -, -, h⟩ <;> rw [h]
  · exact .inl rfl
  · exact .inl rfl
  · exact .inr ⟨rfl, henable, hloop⟩
  · exact .inl rfl

/-- A bit clock keeps the flag, or sets it: then the IRQ is enabled and the sample does not loop. -/
theorem dmcClock_irqFlag (s : State) :
    (dmcClock s).dmc.irqFlag = s.dmc.irqFlag
    ∨ ((dmcClock s).dmc.irqFlag = true ∧ s.dmc.irqEnable = true ∧ s.dmc.loopFlag = false) := by
  have hflag := (dmcConsume_keeps s.dmc).2.2
  have hlatches := dmcConsume_sameLatches s.dmc
  rcases dmcClock_cases s with ⟨-, h⟩ | ⟨-, h⟩
  · exact .inl (by rw [h]; exact hflag)
  · rw [h, ← hflag, ← hlatches.irqEnable, ← hlatches.loopFlag]
    exact dmcRefill_irqFlag _ _

/-- So do k bit clocks. -/
theorem dmcClocks_irqFlag (k : Nat) (s : State) :
    (dmcClocks k s).dmc.irqFlag = s.dmc.irqFlag
    ∨ ((dmcClocks k s).dmc.irqFlag = true ∧ s.dmc.irqEnable = true ∧ s.dmc.loopFlag = false) := by
  induction k generalizing s with
  | zero => exact .inl rfl
  | succ k ih =>
    have hlatches := dmcClock_sameLatches s
    rcases ih (dmcClock s) with hkept | ⟨hset, henable, hloop⟩
    · rw [dmcClocks, hkept]
      exact dmcClock_irqFlag s
    · exact .inr ⟨hset, hlatches.irqEnable ▸ henable, hlatches.loopFlag ▸ hloop⟩

/-- A sample's bit clocks keep the flag, or set it: then channel and IRQ are enabled and the sample does not loop. -/
theorem dmcAfterClocks_irqFlag (s : State) :
    (dmcAfterClocks s).dmc.irqFlag = s.dmc.irqFlag
    ∨ ((dmcAfterClocks s).dmc.irqFlag = true ∧ s.dmc.enabled = true ∧ s.dmc.irqEnable = true
      ∧ s.dmc.loopFlag = false) := by
  cases hon : s.dmc.enabled with
  | false => exact .inl (by simp [dmcAfterClocks, dmcClockCount, hon, dmcClocks, dmcAdvance])
  | true =>
    rcases dmcClocks_irqFlag (dmcClockCount s) (dmcAdvance s) with h | ⟨hset, henable, hloop⟩
    · exact .inl h
    · exact .inr ⟨hset, rfl, henable, hloop⟩

/-- What an operation can do to the DMC IRQ flag: only `W4010`, `W4015` and SAMPLE.DMC touch it. -/
theorem exec_dmcIrqFlag_cases {i : Instr} {s t : State} (h : exec i s = .next t) :
    t.dmc.irqFlag = s.dmc.irqFlag
    ∨ ((∃ d, i = .w4015 d) ∧ t.dmc.irqFlag = false)
    ∨ (∃ d, i = .w4010 d ∧ t.dmc.irqFlag = (s.dmc.irqFlag && dmcIrqEnableField d))
    ∨ (i = .sampleDmc ∧ t.dmc.irqFlag = true ∧ s.dmc.enabled = true ∧ s.dmc.irqEnable = true
      ∧ s.dmc.loopFlag = false) := by
  cases i
  case w4010 d =>
    rw [exec_w4010] at h
    cases h
    exact .inr (.inr (.inl ⟨d, rfl, rfl⟩))
  case w4015 d => cases h; exact .inr (.inl ⟨⟨d, rfl⟩, rfl⟩)
  case sampleDmc =>
    rw [exec_sampleDmc] at h
    cases h
    rcases dmcAfterClocks_irqFlag s with hkept | hset
    · exact .inl hkept
    · exact .inr (.inr (.inr ⟨rfl, hset⟩))
  case tick n =>
    obtain ⟨-, -, -, hdmc, -⟩ := tickCycles_keeps n s
    cases h
    exact .inl (congrArg Dmc.irqFlag hdmc)
  all_goals
    cases h
    exact .inl rfl

/-- Settles O48: from what each operation does to the flag. -/
theorem dmcIrqLifeCycle : Obligations.DmcIrqLifeCycle := by
  intro i _ t h
  rcases exec_dmcIrqFlag_cases h with hkept | ⟨hi, hflag⟩ | ⟨d, hi, hflag⟩ | ⟨hi, hflag, hcond⟩
  · rw [hkept]
    exact ⟨fun hset hclear => by simp [hset] at hclear, fun hclear hset => by simp [hset] at hclear⟩
  · exact ⟨fun _ _ => .inl hi, fun _ hset => by simp [hflag] at hset⟩
  · refine ⟨fun hset hclear => .inr ⟨d, hi, fun hbit => ?_⟩, fun hclear hset => by simp [hflag, hclear] at hset⟩
    have hoff : dmcIrqEnableField d = false := by simpa [hflag, hset] using hclear
    exact Bool.false_ne_true (hoff.symm.trans ((getLsbD_iff_bitSet d 7).mpr hbit))
  · exact ⟨fun _ hclear => by simp [hflag] at hclear, fun _ _ => ⟨hi, hcond⟩⟩

/-- Settles O49: each acknowledgement clears its own flag and keeps the other. -/
theorem acknowledgingOneSourceLeavesTheOther : Obligations.AcknowledgingOneSourceLeavesTheOther :=
  fun _ _ => ⟨Bool.or_eq_true _ _ ▸ Iff.rfl, ⟨_, rfl, Bool.false_or _⟩, ⟨_, rfl, Bool.or_false _⟩⟩

/-! ## The length counters -/

theorem gate_counter_le (on : Bool) (l : LengthCounter) : (l.gate on).counter ≤ l.counter := by
  cases on
  · exact Nat.zero_le _
  · exact le_rfl

/-- In t none of the four length counters is higher than in s. -/
structure State.CountersLe (t s : State) : Prop where
  pulse1 : t.pulse1.len.counter ≤ s.pulse1.len.counter
  pulse2 : t.pulse2.len.counter ≤ s.pulse2.len.counter
  tri : t.tri.len.counter ≤ s.tri.len.counter
  noise : t.noise.len.counter ≤ s.noise.len.counter

theorem State.CountersLe.trans {s t u : State} (htu : u.CountersLe t) (hst : t.CountersLe s) : u.CountersLe s :=
  ⟨htu.pulse1.trans hst.pulse1, htu.pulse2.trans hst.pulse2, htu.tri.trans hst.tri, htu.noise.trans hst.noise⟩

/-- A sweep only lowers the counter its channel's length tick has lowered. -/
theorem pulseHalf_counter_le (conv : DividerConvention) (c : Pulse) : (pulseHalf conv c).len.counter ≤ c.len.counter :=
  (sweepTick_counter_le conv { c with len := lengthTick c.len }).trans (lengthTick_counter_le c.len)

theorem half_countersLe (s : State) : (half s).CountersLe s :=
  ⟨pulseHalf_counter_le _ _, pulseHalf_counter_le _ _, lengthTick_counter_le _, lengthTick_counter_le _⟩

theorem quarter_countersLe (s : State) : (quarter s).CountersLe s := ⟨le_rfl, le_rfl, le_rfl, le_rfl⟩

/-- The frame record has no length counter. -/
theorem setFrame_countersLe (f : FrameSequencer) (s : State) : (s.setFrame f).CountersLe s :=
  ⟨le_rfl, le_rfl, le_rfl, le_rfl⟩

theorem frameStep_countersLe (s : State) : (frameStep s).CountersLe s := by
  rcases frameStep_cases s with h | h | h <;> rw [h]
  · exact setFrame_countersLe _ s
  · exact (setFrame_countersLe _ _).trans (quarter_countersLe s)
  · exact (setFrame_countersLe _ _).trans ((half_countersLe _).trans (quarter_countersLe s))

theorem tickCycles_countersLe (n : Nat) (s : State) : (tickCycles n s).CountersLe s :=
  tickCycles_induction (P := (·.CountersLe s)) (fun t ht => (frameStep_countersLe t).trans ht)
    (fun _ t ht => (setFrame_countersLe _ t).trans ht) n s ⟨le_rfl, le_rfl, le_rfl, le_rfl⟩

/-- Each length counter rises only by the write of its group's last register (R27). -/
theorem exec_counters {i : Instr} {s t : State} (h : exec i s = .next t) :
    ((∃ d, i = .w4003 d) ∨ t.pulse1.len.counter ≤ s.pulse1.len.counter)
    ∧ ((∃ d, i = .w4007 d) ∨ t.pulse2.len.counter ≤ s.pulse2.len.counter)
    ∧ ((∃ d, i = .w400B d) ∨ t.tri.len.counter ≤ s.tri.len.counter)
    ∧ ((∃ d, i = .w400F d) ∨ t.noise.len.counter ≤ s.noise.len.counter) := by
  cases i
  case w4003 d => cases h; exact ⟨.inl ⟨d, rfl⟩, .inr le_rfl, .inr le_rfl, .inr le_rfl⟩
  case w4007 d => cases h; exact ⟨.inr le_rfl, .inl ⟨d, rfl⟩, .inr le_rfl, .inr le_rfl⟩
  case w400B d => cases h; exact ⟨.inr le_rfl, .inr le_rfl, .inl ⟨d, rfl⟩, .inr le_rfl⟩
  case w400F d => cases h; exact ⟨.inr le_rfl, .inr le_rfl, .inr le_rfl, .inl ⟨d, rfl⟩⟩
  case w4015 d =>
    cases h
    exact ⟨.inr (gate_counter_le _ _), .inr (gate_counter_le _ _), .inr (gate_counter_le _ _),
      .inr (gate_counter_le _ _)⟩
  case tick n =>
    have hle := tickCycles_countersLe n s
    cases h
    exact ⟨.inr hle.pulse1, .inr hle.pulse2, .inr hle.tri, .inr hle.noise⟩
  case sampleDmc =>
    rw [exec_sampleDmc, dmcAfterClocks_frame] at h
    cases h
    exact ⟨.inr le_rfl, .inr le_rfl, .inr le_rfl, .inr le_rfl⟩
  all_goals
    cases h
    exact ⟨.inr le_rfl, .inr le_rfl, .inr le_rfl, .inr le_rfl⟩

/-- Settles O50: a counter that rose is not lower or equal. -/
theorem onlyResetsLoadLengthCounters : Obligations.OnlyResetsLoadLengthCounters := by
  intro i _ t h
  obtain ⟨h1, h2, h3, h4⟩ := exec_counters h
  exact ⟨fun hlt => h1.resolve_right hlt.not_ge, fun hlt => h2.resolve_right hlt.not_ge,
    fun hlt => h3.resolve_right hlt.not_ge, fun hlt => h4.resolve_right hlt.not_ge⟩

/-! ## Who writes what -/

/-- Settles O51: by the operation; TICK by what it leaves alone, SAMPLE.DMC by the latches its bit clocks keep. -/
theorem controlStateHasOneWriter : Obligations.ControlStateHasOneWriter := by
  intro i s t h
  cases i
  case w4015 d =>
    cases h
    have hdmc := writeEnable_eq (dmcEnableField d) s.dmc
    have hstart : (s.dmc.writeEnable (dmcEnableField d)).startReg = s.dmc.startReg := by rw [hdmc]
    have hlength : (s.dmc.writeEnable (dmcEnableField d)).lengthReg = s.dmc.lengthReg := by rw [hdmc]
    exact ⟨.inl ⟨d, rfl⟩, .inr ⟨rfl, rfl⟩, .inr rfl, .inr hstart, .inr hlength⟩
  case w4017 d => cases h; exact ⟨.inr ⟨rfl, rfl, rfl, rfl, rfl⟩, .inl ⟨d, rfl⟩, .inr rfl, .inr rfl, .inr rfl⟩
  case w4010 d =>
    rw [exec_w4010] at h
    cases h
    exact ⟨.inr ⟨rfl, rfl, rfl, rfl, rfl⟩, .inr ⟨rfl, rfl⟩, .inr rfl, .inr rfl, .inr rfl⟩
  case w4012 d =>
    cases h; exact ⟨.inr ⟨rfl, rfl, rfl, rfl, rfl⟩, .inr ⟨rfl, rfl⟩, .inr rfl, .inl ⟨d, rfl⟩, .inr rfl⟩
  case w4013 d =>
    cases h; exact ⟨.inr ⟨rfl, rfl, rfl, rfl, rfl⟩, .inr ⟨rfl, rfl⟩, .inr rfl, .inr rfl, .inl ⟨d, rfl⟩⟩
  case sampleNoi => cases h; exact ⟨.inr ⟨rfl, rfl, rfl, rfl, rfl⟩, .inr ⟨rfl, rfl⟩, .inl rfl, .inr rfl, .inr rfl⟩
  case sampleDmc =>
    have hlatches := dmcClocks_sameLatches (dmcClockCount s) (dmcAdvance s)
    rw [exec_sampleDmc, dmcAfterClocks_frame] at h
    cases h
    exact ⟨.inr ⟨rfl, rfl, rfl, rfl, hlatches.enabled⟩, .inr ⟨rfl, rfl⟩, .inr rfl, .inr hlatches.startReg,
      .inr hlatches.lengthReg⟩
  case tick n =>
    have hticked : ∀ {α : Type} (f : State → α), f (tickCycles n s) = f ((tickCycles n s).withTicked s) :=
      fun f => congrArg f (tickCycles_onlyTicked n s)
    cases h
    exact ⟨.inr ⟨hticked (·.pulse1.enabled), hticked (·.pulse2.enabled), hticked (·.tri.enabled),
        hticked (·.noise.enabled), hticked (·.dmc.enabled)⟩,
      .inr ⟨hticked (·.frame.mode), hticked (·.frame.irqInhibit)⟩, .inr (hticked (·.noise.lfsr)),
      .inr (hticked (·.dmc.startReg)), .inr (hticked (·.dmc.lengthReg))⟩
  all_goals
    cases h
    exact ⟨.inr ⟨rfl, rfl, rfl, rfl, rfl⟩, .inr ⟨rfl, rfl⟩, .inr rfl, .inr rfl, .inr rfl⟩

/-! ## The two pulse channels -/

/-- A frame step does not tell the pulse channels apart. -/
theorem frameStep_swapPulses (s : State) : frameStep s.swapPulses = (frameStep s).swapPulses := by
  have hu : unitsAfterStep s.swapPulses = (unitsAfterStep s).swapPulses := by
    have hframe : s.swapPulses.frame = s.frame := rfl
    simp only [unitsAfterStep, hframe]
    cases s.frame.mode with
    | fourStep => simp only [apply_ite State.swapPulses]; rfl
    | fiveStep => simp only [apply_ite State.swapPulses]; rfl
  rw [frameStep_eq, frameStep_eq, hu]
  rfl

theorem tickCycles_swapPulses (n : Nat) (s : State) : tickCycles n s.swapPulses = (tickCycles n s).swapPulses := by
  rw [tickCycles_eq, tickCycles_eq]
  have hsteps (k : Nat) : frameStep^[k] s.swapPulses = (frameStep^[k] s).swapPulses :=
    (Function.Semiconj.iterate_right (f := State.swapPulses) (fun t => (frameStep_swapPulses t).symm) k s).symm
  rw [hsteps]
  rfl

/-- Settles O52: the writes of pulse 2 apply the functions of the writes of pulse 1; TICK by its frame steps. -/
theorem pulseChannelsAreIdentical : Obligations.PulseChannelsAreIdentical := fun _ n s =>
  ⟨⟨_, rfl, rfl⟩, ⟨_, rfl, rfl⟩, ⟨_, rfl, rfl⟩, ⟨_, rfl, rfl⟩,
    ⟨_, exec_tick n s, by rw [exec_tick, tickCycles_swapPulses]⟩⟩

end Sys2Proof.Machine
end

section
/-! PROOF. Power-on (spec/10_state.md section 4, spec/70_reset_and_hazards.md section 1) and the invariant
(spec/10_state.md section 5): it holds at reset, and each unit's operations keep that unit's clause of it. -/

namespace Sys2Proof.Machine

/-! ## Power-on -/

/-- A state whose units are the power-on records meets the table of R38. -/
theorem powerOnTable_of_units {s : State} (h1 : s.pulse1 = pulseAtPowerOn) (h2 : s.pulse2 = pulseAtPowerOn)
    (ht : s.tri = triangleAtPowerOn) (hn : s.noise = noiseAtPowerOn) (hd : s.dmc = dmcAtPowerOn)
    (hf : s.frame = frameAtPowerOn) : PowerOnTable s := by
  rw [PowerOnTable, h1, h2, ht, hn, hd, hf]
  refine ⟨?pulses, ?tri, ?noise, ?dmc, ?frame⟩
  case pulses =>
    rintro c (rfl | rfl) <;> decide
  all_goals decide

/-- Settles O54: the warm reset puts the six power-on records in place and touches nothing else. -/
theorem resetBlockRestoresPowerOn : Obligations.ResetBlockRestoresPowerOn := fun _ =>
  ⟨powerOnTable_of_units rfl rfl rfl rfl rfl rfl, rfl, rfl, rfl, rfl⟩

/-- The power-on state's DMC runs no bit clock. -/
theorem dmcAfterClocks_reset : dmcAfterClocks State.reset = dmcAdvance State.reset := rfl

/-- From power-on the interrupt output is up after four whole intervals. -/
theorem irqPending_tickCycles_reset (n : Nat) : irqPending (tickCycles n State.reset) = true ↔ 29828 ≤ n := by
  obtain ⟨-, -, -, hdmc, -⟩ := tickCycles_keeps n State.reset
  have hquiet : State.reset.dmc.irqFlag = false := rfl
  have hsteps := iterate_frameAfterStep_irqFlag_iff ((0 + n) / 7457) (f := frameAtPowerOn) rfl (Nat.zero_le _)
  have hflag : (tickCycles n State.reset).frame.irqFlag = true ↔ 4 ≤ (0 + n) / 7457 := by
    rw [tickCycles_irqFlag]
    exact hsteps.trans (by simp [frameAtPowerOn])
  rw [irqPending, hdmc, hquiet, Bool.or_false, hflag]
  omega

/-- Settles O53: the table; the samples of closed channels and of a DMC at level 0; the flag by its four intervals. -/
theorem powerOnBlockIsIdle : Obligations.PowerOnBlockIsIdle := by
  refine ⟨powerOnTable_of_units rfl rfl rfl rfl rfl rfl, ⟨_, rfl, ?p1⟩, ⟨_, rfl, ?p2⟩, ⟨_, rfl, ?tri⟩, ⟨_, rfl, ?noi⟩,
    ⟨_, exec_sampleDmc _, ?dmc⟩, fun n => ⟨_, exec_tick n _, irqPending_tickCycles_reset n⟩⟩
  case p1 =>
    have hsilent := pulseOutput_of_closed (c := pulseAdvance defaultConfig pulseAtPowerOn) (.inl rfl)
    exact congrArg (fun y => [Event.sample .p1 y]) hsilent
  case p2 =>
    have hsilent := pulseOutput_of_closed (c := pulseAdvance defaultConfig pulseAtPowerOn) (.inl rfl)
    exact congrArg (fun y => [Event.sample .p2 y]) hsilent
  case tri =>
    have hsilent := triangleOutput_of_closed (t := triangleAdvance defaultConfig triangleAtPowerOn) (.inl rfl)
    exact congrArg (fun y => [Event.sample .tri y]) hsilent
  case noi =>
    have hsilent := noiseOutput_of_closed (n := noiseAdvance defaultConfig noiseAtPowerOn) (.inl rfl)
    exact congrArg (fun y => [Event.sample .noi y]) hsilent
  case dmc =>
    have hlow : dmcOutput (dmcAdvance State.reset).dmc = -1 := by
      change (((0 : Nat) : Rat) - 64) / 64 = -1
      norm_num
    rw [dmcAfterClocks_reset, State.emit_trace, hlow]
    rfl

/-- The default configuration is well formed, whatever the free sample rate is. -/
theorem defaultConfig_wellFormed : defaultConfig.WellFormed := by
  refine ⟨?rate, by decide, by decide, by decide, by decide⟩
  case rate =>
    unfold defaultConfig
    positivity

/-- Settles O55: the configuration, then each power-on record against its unit's clause. -/
theorem resetIsSafe : Obligations.ResetIsSafe :=
  have hpulse : pulseAtPowerOn.Safe .zeroAfterDecrement := by decide
  ⟨defaultConfig_wellFormed, hpulse, hpulse, (by decide : triangleAtPowerOn.Safe),
    (by decide : noiseAtPowerOn.Safe .zeroAfterDecrement), (by decide : dmcAtPowerOn.Safe),
    (by decide : frameAtPowerOn.Safe)⟩

/-! ## What each unit operation keeps -/

theorem phaseAdvance_inRange (cfg : Config) (ph f : Rat) : PhaseInRange (phaseAdvance cfg ph f).1 :=
  ⟨phaseAdvance_nonneg cfg ph f, phaseAdvance_lt_one cfg ph f⟩

theorem lengthLoad_le {cfg : Config} (h : cfg.WellFormed) (i : BitVec 5) : lengthLoad cfg i ≤ 255 := by
  obtain ⟨-, hlength, -⟩ := h
  obtain ⟨-, hle⟩ := hlength ⟨i.toNat, i.isLt⟩
  exact hle

section
variable {conv : DividerConvention}

/-! ### Envelope and sweep -/

/-- A divider that counts down goes no higher, and under `ZERO_AFTER_DECREMENT` stays at least 1 (R190). -/
theorem dividerTick_inRange {n m : Nat} (h : dividerTick conv n = some m) :
    m ≤ n ∧ (conv = .zeroAfterDecrement → 1 ≤ m) := by
  rcases dividerTick_cases conv n with ⟨hnone, -⟩ | ⟨hsome, hcount⟩
  · simp [hnone] at h
  · obtain rfl : n - 1 = m := Option.some.inj (hsome.symm.trans h)
    refine ⟨Nat.sub_le _ _, fun hconv => ?_⟩
    rcases hcount with ⟨-, h2⟩ | ⟨hbelow, -⟩
    · exact Nat.le_sub_of_add_le h2
    · exact absurd (hconv.symm.trans hbelow) (by decide)

theorem Envelope.InRange.restart (e : Envelope) : (envelopeRestart e).InRange conv :=
  ⟨le_rfl, e.volume.isLt, fun _ => Nat.succ_pos _⟩

theorem Envelope.InRange.tick {e : Envelope} (h : e.InRange conv) : (envelopeTick conv e).InRange conv := by
  obtain ⟨hdecay, hhi, -⟩ := h
  rcases envelopeTick_cases conv e with ⟨-, htick⟩ | ⟨hsome, htick⟩ <;> rw [htick]
  · exact ⟨envelopeUnderflow_decayCounter_le e hdecay, e.volume.isLt, fun _ => Nat.succ_pos _⟩
  · obtain ⟨hle, hlo⟩ := dividerTick_inRange hsome
    exact ⟨hdecay, hle.trans hhi, hlo⟩

theorem Sweep.InRange.tick {c : Pulse} (h : c.sweep.InRange conv) : (sweepTick conv c).sweep.InRange conv := by
  obtain ⟨hhi, htarget, -⟩ := h
  have hreload : c.sweep.period.toNat + 1 ≤ 8 := c.sweep.period.isLt
  rcases sweepTick_cases conv c with ⟨hsome, htick⟩ | ⟨-, -, htick⟩ | ⟨-, ⟨-, hshift, -⟩, -, htick⟩
    | ⟨-, ⟨-, hshift, -⟩, -, htick⟩ <;> rw [htick]
  · obtain ⟨hle, hlo⟩ := dividerTick_inRange hsome
    exact ⟨hle.trans hhi, htarget, hlo⟩
  · exact ⟨hreload, htarget, fun _ => Nat.succ_pos _⟩
  · exact ⟨hreload, sweepTarget_le c hshift, fun _ => Nat.succ_pos _⟩
  · exact ⟨hreload, sweepTarget_le c hshift, fun _ => Nat.succ_pos _⟩

/-! ### Pulse -/

theorem Pulse.Safe.writeControl {c : Pulse} (h : c.Safe conv) (d : Byte) : (c.writeControl d).Safe conv := by
  obtain ⟨henv, hsweep, hlen, hphase, -⟩ := h
  exact ⟨henv, hsweep, hlen, hphase, rfl⟩

theorem Pulse.Safe.writePeriodHigh {c : Pulse} (h : c.Safe conv) {cfg : Config} (hcfg : cfg.WellFormed) (d : Byte) :
    (c.writePeriodHigh cfg d).Safe conv := by
  obtain ⟨-, hsweep, -, -, hloop⟩ := h
  exact ⟨.restart c.env, hsweep, lengthLoad_le hcfg _, ⟨le_rfl, zero_lt_one⟩, hloop⟩

@[simp] theorem gate_halt (on : Bool) (l : LengthCounter) : (l.gate on).halt = l.halt := by
  cases on <;> rfl

theorem Pulse.Safe.writeEnable {c : Pulse} (h : c.Safe conv) (on : Bool) :
    Pulse.Safe conv { c with enabled := on, len := c.len.gate on } := by
  obtain ⟨henv, hsweep, hlen, hphase, hloop⟩ := h
  exact ⟨henv, hsweep, (gate_counter_le on c.len).trans hlen, hphase, hloop.trans (gate_halt on c.len).symm⟩

theorem Pulse.Safe.quarter {c : Pulse} (h : c.Safe conv) : (pulseQuarter conv c).Safe conv := by
  obtain ⟨henv, hsweep, hlen, hphase, hloop⟩ := h
  exact ⟨henv.tick, hsweep, hlen, hphase, (envelopeTick_loop conv c.env).trans hloop⟩

theorem Pulse.Safe.half {c : Pulse} (h : c.Safe conv) : (pulseHalf conv c).Safe conv := by
  obtain ⟨henv, hsweep, hlen, hphase, hloop⟩ := h
  have hlen' := (pulseHalf_counter_le conv c).trans hlen
  simp only [pulseHalf] at hlen' ⊢
  refine ⟨?_, Sweep.InRange.tick hsweep, hlen', ?_, ?_⟩
  · rwa [sweepTick_env]
  · rwa [sweepTick_phase]
  · rw [sweepTick_env, sweepTick_halt, lengthTick_halt, hloop]

theorem Pulse.Safe.advance {c : Pulse} (h : c.Safe conv) (cfg : Config) : (pulseAdvance cfg c).Safe conv := by
  obtain ⟨henv, hsweep, hlen, -, hloop⟩ := h
  exact ⟨henv, hsweep, hlen, phaseAdvance_inRange cfg _ _, hloop⟩

/-! ### Noise -/

theorem Noise.Safe.writeEnable {n : Noise} (h : n.Safe conv) (on : Bool) :
    Noise.Safe conv { n with enabled := on, len := n.len.gate on } := by
  obtain ⟨henv, hlen, hphase, hloop, hlfsr⟩ := h
  exact ⟨henv, (gate_counter_le on n.len).trans hlen, hphase, hloop.trans (gate_halt on n.len).symm, hlfsr⟩

theorem Noise.Safe.reset {n : Noise} (h : n.Safe conv) {cfg : Config} (hcfg : cfg.WellFormed) (i : BitVec 5) :
    (noiseReset cfg { n with lengthIndex := i }).Safe conv := by
  obtain ⟨-, -, -, hloop, hlfsr⟩ := h
  exact ⟨.restart n.env, lengthLoad_le hcfg i, ⟨le_rfl, zero_lt_one⟩, hloop, hlfsr⟩

theorem Noise.Safe.quarter {n : Noise} (h : n.Safe conv) :
    Noise.Safe conv { n with env := envelopeTick conv n.env } := by
  obtain ⟨henv, hlen, hphase, hloop, hlfsr⟩ := h
  exact ⟨henv.tick, hlen, hphase, (envelopeTick_loop conv n.env).trans hloop, hlfsr⟩

theorem Noise.Safe.half {n : Noise} (h : n.Safe conv) : Noise.Safe conv { n with len := lengthTick n.len } := by
  obtain ⟨henv, hlen, hphase, hloop, hlfsr⟩ := h
  exact ⟨henv, (lengthTick_counter_le n.len).trans hlen, hphase, hloop.trans (lengthTick_halt n.len).symm, hlfsr⟩

theorem Noise.Safe.advance {n : Noise} (h : n.Safe conv) (cfg : Config) : (noiseAdvance cfg n).Safe conv := by
  obtain ⟨henv, hlen, -, hloop, hlfsr⟩ := h
  exact ⟨henv, hlen, phaseAdvance_inRange cfg _ _, hloop, lfsrSteps_ne_zero _ _ hlfsr⟩

end

/-! ### Triangle -/

theorem Triangle.Safe.writePeriodHigh {t : Triangle} (h : t.Safe) {cfg : Config} (hcfg : cfg.WellFormed)
    (p : BitVec 11) (i : BitVec 5) : (triangleReset cfg { t with timerPeriod := p, lengthIndex := i }).Safe := by
  obtain ⟨-, -, -, hcontrol⟩ := h
  exact ⟨lengthLoad_le hcfg i, Nat.le_of_lt_succ t.lin.reloadValue.isLt, ⟨le_rfl, zero_lt_one⟩, hcontrol⟩

theorem Triangle.Safe.writeEnable {t : Triangle} (h : t.Safe) (on : Bool) :
    Triangle.Safe { t with enabled := on, len := t.len.gate on } := by
  obtain ⟨hlen, hlin, hphase, hcontrol⟩ := h
  exact ⟨(gate_counter_le on t.len).trans hlen, hlin, hphase, hcontrol.trans (gate_halt on t.len).symm⟩

theorem Triangle.Safe.quarter {t : Triangle} (h : t.Safe) : Triangle.Safe { t with lin := linearTick t.lin } := by
  obtain ⟨hlen, hlin, hphase, hcontrol⟩ := h
  exact ⟨hlen, linearTick_counter_le t.lin hlin, hphase, hcontrol⟩

theorem Triangle.Safe.half {t : Triangle} (h : t.Safe) : Triangle.Safe { t with len := lengthTick t.len } := by
  obtain ⟨hlen, hlin, hphase, hcontrol⟩ := h
  exact ⟨(lengthTick_counter_le t.len).trans hlen, hlin, hphase, hcontrol.trans (lengthTick_halt t.len).symm⟩

theorem Triangle.Safe.advance {t : Triangle} (h : t.Safe) (cfg : Config) : (triangleAdvance cfg t).Safe := by
  obtain ⟨hlen, hlin, -, hcontrol⟩ := h
  exact ⟨hlen, hlin, phaseAdvance_inRange cfg _ _, hcontrol⟩

/-! ### DMC -/

theorem dmcByteCount_le (l : Byte) : dmcByteCount l ≤ 4081 := by
  have := l.isLt
  unfold dmcByteCount
  omega

theorem Dmc.Safe.restart {c : Dmc} (h : c.Safe) : (dmcRestart c).Safe := by
  obtain ⟨-, hbits, hlevel, hphase, -⟩ := h
  have haddr := dmcRestart_sampleAddress_toNat c
  exact ⟨dmcByteCount_le _, hbits, hlevel, hphase, by omega⟩

theorem Dmc.Safe.writeLevel {c : Dmc} (h : c.Safe) (d : Byte) : Dmc.Safe { c with outputLevel := levelField d } := by
  obtain ⟨hbytes, hbits, -, hphase, haddr⟩ := h
  have hlevel : levelField d ≤ 127 := by
    rw [levelField_eq]
    omega
  exact ⟨hbytes, hbits, hlevel, hphase, haddr⟩

theorem Dmc.Safe.writeLength {c : Dmc} (h : c.Safe) (d : Byte) : (dmcReset { c with lengthReg := d }).Safe := by
  obtain ⟨hbytes, hbits, hlevel, -, haddr⟩ := h
  exact Dmc.Safe.restart (c := { c with lengthReg := d, phase := 0 })
    ⟨hbytes, hbits, hlevel, ⟨le_rfl, zero_lt_one⟩, haddr⟩

theorem Dmc.Safe.writeEnable {c : Dmc} (h : c.Safe) (on : Bool) : (c.writeEnable on).Safe := by
  cases on with
  | false =>
    obtain ⟨-, hrest⟩ := h
    exact ⟨Nat.zero_le _, hrest⟩
  | true =>
    by_cases hbytes : c.bytesRemaining = 0
    · rw [writeEnable_of_ended hbytes]
      exact Dmc.Safe.restart (c := { c with enabled := true }) h
    · rw [writeEnable_of_running hbytes]
      exact h

theorem Dmc.Safe.consume {c : Dmc} (h : c.Safe) : (dmcConsume c).Safe := by
  rcases Nat.eq_zero_or_pos c.bitsRemaining with hnone | hsome
  · rwa [dmcConsume_of_empty hnone]
  · obtain ⟨hbytes, hbits, hlevel, hphase, haddr⟩ := h
    have hmoved : (if c.bitBuffer.getLsbD 0 then min (c.outputLevel + 2) 126 else c.outputLevel - 2) ≤ 127 := by
      split <;> omega
    rw [dmcConsume_of_bits hsome]
    exact ⟨hbytes, (Nat.sub_le _ _).trans hbits, hmoved, hphase, haddr⟩

theorem Dmc.Safe.sampleEnd {c : Dmc} (h : c.Safe) : (dmcSampleEnd c).Safe := by
  rcases dmcSampleEnd_cases c with ⟨-, hend⟩ | ⟨-, -, hend⟩ | ⟨-, -, -, hend⟩ | ⟨-, -, -, hend⟩ <;> rw [hend]
  · exact h
  · exact h.restart
  · exact h
  · exact h

theorem Dmc.Safe.refill {c : Dmc} (h : c.Safe) (b : Byte) : (dmcRefill b c).Safe := by
  obtain ⟨hbytes, -, hlevel, hphase, haddr⟩ := h
  exact Dmc.Safe.sampleEnd (c := dmcLoad b c)
    ⟨(Nat.sub_le _ _).trans hbytes, le_rfl, hlevel, hphase, nextSampleAddress_ge haddr⟩

theorem Dmc.Safe.clock {s : State} (h : s.dmc.Safe) : (dmcClock s).dmc.Safe := by
  rcases dmcClock_cases s with ⟨-, hclock⟩ | ⟨-, hclock⟩ <;> rw [hclock]
  · exact h.consume
  · exact h.consume.refill _

/-- SAMPLE.DMC: the phase, then the bit clocks. -/
theorem Dmc.Safe.sample {s : State} (h : s.dmc.Safe) : (dmcAfterClocks s).dmc.Safe := by
  obtain ⟨hbytes, hbits, hlevel, -, haddr⟩ := h
  exact dmcClocks_induction (P := fun t => t.dmc.Safe) (fun _ => Dmc.Safe.clock) _ (dmcAdvance s)
    ⟨hbytes, hbits, hlevel, phaseAdvance_inRange _ _ _, haddr⟩

/-! ### Frame sequencer -/

theorem FrameSequencer.Safe.restart (mode : FrameMode) (inhibit flag : Bool) :
    FrameSequencer.Safe ⟨0, 0, mode, inhibit, flag⟩ :=
  have hpos : 0 < frameStepCycles := by decide
  ⟨hpos, fun _ => Nat.zero_le _, fun _ => Nat.zero_le _⟩

theorem FrameSequencer.Safe.step {f : FrameSequencer} (h : f.Safe) : (frameAfterStep f).Safe := by
  obtain ⟨hacc, hfour, hfive⟩ := h
  rw [FrameSequencer.Safe, frameAfterStep_cycleAccumulator, frameAfterStep_mode]
  refine ⟨hacc, fun hmode => ?_, fun hmode => ?_⟩
  · rw [frameAfterStep_step_fourStep hmode (hfour hmode)]
    have := hfour hmode
    split <;> omega
  · rw [frameAfterStep_step_fiveStep hmode (hfive hmode)]
    have := hfive hmode
    split <;> omega

/-! ## What each operation keeps -/

theorem State.Safe.quarter {s : State} (h : s.Safe) : (quarter s).Safe := by
  obtain ⟨hcfg, hp1, hp2, htri, hnoise, hdmc, hframe⟩ := h
  exact ⟨hcfg, hp1.quarter, hp2.quarter, htri.quarter, hnoise.quarter, hdmc, hframe⟩

theorem State.Safe.half {s : State} (h : s.Safe) : (half s).Safe := by
  obtain ⟨hcfg, hp1, hp2, htri, hnoise, hdmc, hframe⟩ := h
  exact ⟨hcfg, hp1.half, hp2.half, htri.half, hnoise.half, hdmc, hframe⟩

theorem State.Safe.setFrame {s : State} (h : s.Safe) {f : FrameSequencer} (hf : f.Safe) : (s.setFrame f).Safe := by
  obtain ⟨hcfg, hp1, hp2, htri, hnoise, hdmc, -⟩ := h
  exact ⟨hcfg, hp1, hp2, htri, hnoise, hdmc, hf⟩

theorem State.Safe.setAccumulator {s : State} (h : s.Safe) {a : Nat} (ha : a < frameStepCycles) :
    (s.setAccumulator a).Safe := by
  obtain ⟨hcfg, hp1, hp2, htri, hnoise, hdmc, -, hcounts⟩ := h
  exact ⟨hcfg, hp1, hp2, htri, hnoise, hdmc, ha, hcounts⟩

theorem State.Safe.frameStep {s : State} (h : s.Safe) : (frameStep s).Safe := by
  have hframe : (frameAfterStep s.frame).Safe := by
    obtain ⟨-, -, -, -, -, -, hframe⟩ := h
    exact hframe.step
  rcases frameStep_cases s with hs | hs | hs <;> rw [hs]
  · exact h.setFrame hframe
  · exact h.quarter.setFrame hframe
  · exact h.quarter.half.setFrame hframe

/-- TICK: frame steps keep the invariant, and leave a rest below 7457. -/
theorem State.Safe.tickCycles {s : State} (h : s.Safe) (n : Nat) : (tickCycles n s).Safe := by
  have hsteps (k : Nat) : (Machine.frameStep^[k] s).Safe := by
    induction k with
    | zero => exact h
    | succ k ih =>
      rw [Function.iterate_succ_apply']
      exact ih.frameStep
  rw [tickCycles_eq]
  exact (hsteps _).setAccumulator (Nat.mod_lt _ (by decide))

/-- Every operation keeps the invariant. -/
theorem exec_keeps_safe {i : Instr} {s t : State} (hs : s.Safe) (h : exec i s = .next t) : t.Safe := by
  obtain ⟨hcfg, hp1, hp2, htri, hnoise, hdmc, hframe⟩ := id hs
  cases i
  case tick n => cases h; exact hs.tickCycles n
  case sampleDmc =>
    rw [exec_sampleDmc, dmcAfterClocks_frame] at h
    cases h
    exact ⟨hcfg, hp1, hp2, htri, hnoise, hdmc.sample, hframe⟩
  case w4010 d =>
    rw [exec_w4010] at h
    cases h
    exact ⟨hcfg, hp1, hp2, htri, hnoise, hdmc, hframe⟩
  case w4017 d =>
    rw [exec_w4017] at h
    cases h
    exact hs.setFrame (.restart _ _ _)
  all_goals cases h
  case w4000 d => exact ⟨hcfg, hp1.writeControl d, hp2, htri, hnoise, hdmc, hframe⟩
  case w4003 d => exact ⟨hcfg, hp1.writePeriodHigh hcfg d, hp2, htri, hnoise, hdmc, hframe⟩
  case w4004 d => exact ⟨hcfg, hp1, hp2.writeControl d, htri, hnoise, hdmc, hframe⟩
  case w4007 d => exact ⟨hcfg, hp1, hp2.writePeriodHigh hcfg d, htri, hnoise, hdmc, hframe⟩
  case w4008 d =>
    obtain ⟨hlen, hlin, hphase, -⟩ := htri
    exact ⟨hcfg, hp1, hp2, ⟨hlen, hlin, hphase, rfl⟩, hnoise, hdmc, hframe⟩
  case w400B d => exact ⟨hcfg, hp1, hp2, htri.writePeriodHigh hcfg _ _, hnoise, hdmc, hframe⟩
  case w400C d =>
    obtain ⟨henv, hlen, hphase, -, hlfsr⟩ := hnoise
    exact ⟨hcfg, hp1, hp2, htri, ⟨henv, hlen, hphase, rfl, hlfsr⟩, hdmc, hframe⟩
  case w400F d => exact ⟨hcfg, hp1, hp2, htri, hnoise.reset hcfg _, hdmc, hframe⟩
  case w4011 d => exact ⟨hcfg, hp1, hp2, htri, hnoise, hdmc.writeLevel d, hframe⟩
  case w4013 d => exact ⟨hcfg, hp1, hp2, htri, hnoise, hdmc.writeLength d, hframe⟩
  case w4015 d =>
    exact ⟨hcfg, hp1.writeEnable _, hp2.writeEnable _, htri.writeEnable _, hnoise.writeEnable _, hdmc.writeEnable _,
      hframe⟩
  case sampleP1 => exact ⟨hcfg, hp1.advance s.cfg, hp2, htri, hnoise, hdmc, hframe⟩
  case sampleP2 => exact ⟨hcfg, hp1, hp2.advance s.cfg, htri, hnoise, hdmc, hframe⟩
  case sampleTri => exact ⟨hcfg, hp1, hp2, htri.advance s.cfg, hnoise, hdmc, hframe⟩
  case sampleNoi => exact ⟨hcfg, hp1, hp2, htri, hnoise.advance s.cfg, hdmc, hframe⟩
  all_goals exact ⟨hcfg, hp1, hp2, htri, hnoise, hdmc, hframe⟩

/-- Settles O56: a step idles or runs one operation, which sees the units and not what is issued. -/
theorem stepKeepsTheInvariant : Obligations.StepKeepsTheInvariant := by
  intro s t hs h
  rcases step_next_cases h with rfl | ⟨i, rest, hexec⟩
  · exact hs
  · exact exec_keeps_safe (s := s.setPending rest) hs hexec

end Sys2Proof.Machine
end
